-- ==== Sys2Proof/Word.lean ====
section
/-! DEFINITION. The words of the screen and the pair of per-line copies of a block. -/

namespace Sys2Proof

/-- One byte of a frame (00_scope.md, Byte order). -/
abbrev Byte := BitVec 8

/-- A 16-bit field: a length, a sequence, a flow field, a lease. -/
abbrev Half := BitVec 16

/-- A 32-bit word: a generation, a check word, a group-map word. -/
abbrev Word := BitVec 32

/-- A station ID (00_scope.md, Table 0-2); its top bit 1 makes it a group address. -/
abbrev StationId := BitVec 32

/-- A reading of the 32-bit microsecond timebase (R19). -/
abbrev Time := BitVec 32

/-- A traffic class, 0 to 7. -/
abbrev TrafficClass := Fin 8

/-- The two segment lines. As an arrival line or an egress line it names the block of that line. -/
inductive Line where
  | n
  | s
  deriving DecidableEq, Repr, Inhabited

/-- One copy of a block's state for each line. -/
structure PerLine (α : Type) where
  n : α
  s : α
  deriving DecidableEq, Repr

end Sys2Proof
end

