-- ==== Sys2Proof/Syntax.lean ====
section
/-! DEFINITION. The commands of the screen: one constructor for each row of spec/opcode_table.json. -/

namespace Sys2Proof

/-- The kinds of received symbol (Table 1-1, R1). -/
inductive Symbol where
  | idle
  | startSym
  | endSym
  | abortSym
  | data (b : Byte)
  | invalid
  deriving DecidableEq, Repr

/-- The operations and events of the part. The eleven management commands that take operands carry the operand
bytes of the request's command (Table 11-3); the three RESET rows are the three scopes of RESET. -/
inductive Instr where
  /-- RESETN_ASSERT (R7): RESETn goes low. -/
  | resetnAssert
  /-- RESETN_RELEASE (R20): RESETn goes high with these levels on IDS5 to IDS0. -/
  | resetnRelease (straps : BitVec 6)
  /-- SYMBOL_RECEIVED (R1): the line delivers one symbol. -/
  | symbolReceived (line : Line) (sym : Symbol)
  /-- EGRESS_DECISION (R110): the arbiter of the line takes one offer. -/
  | egressDecision (line : Line)
  /-- LAUNCH_COMPLETION (R17): the END of the launched frame has been sent. -/
  | launchCompletion (line : Line)
  /-- RESIDENCE_EXPIRY (R85) of the head of a class queue. -/
  | residenceExpiry (line : Line) (cls : TrafficClass)
  /-- WINDOW_RELEASE (R103) of a class. -/
  | windowRelease (line : Line) (cls : TrafficClass)
  /-- AGEING_EVENT (R96) of a launch history. -/
  | ageingEvent (line : Line) (cls : TrafficClass)
  /-- CADENCE_EXPIRY (R118) of a line's cadence timer. -/
  | cadenceExpiry (line : Line)
  /-- REQUEST_TAKE (R129): the agent takes a request, or ends the one in hand with its reply. -/
  | requestTake
  /-- OPEN (R141). -/
  | openSession (ops : List Byte)
  /-- CLOSE (R144). -/
  | closeSession (ops : List Byte)
  /-- RD (R148). -/
  | rd (ops : List Byte)
  /-- WR (R23). -/
  | wr (ops : List Byte)
  /-- FILL (R24). -/
  | fill (ops : List Byte)
  /-- COMMIT (R46). -/
  | commit (ops : List Byte)
  /-- REVERT (R55). -/
  | revert (ops : List Byte)
  /-- COPY_BACK_COMPLETION (R53). -/
  | copyBackCompletion
  /-- STAT (R151). -/
  | stat (ops : List Byte)
  /-- CAPT (R154). -/
  | capt (ops : List Byte)
  /-- FREE (R155). -/
  | free (ops : List Byte)
  /-- QUERY (R152). -/
  | query (ops : List Byte)
  /-- RESET with scope COUNTERS (R157). -/
  | resetCounters
  /-- RESET with scope TRAFFIC (R158). -/
  | resetTraffic
  /-- RESET with scope FULL (R159). -/
  | resetFull
  /-- LEASE_EXPIRY (R143). -/
  | leaseExpiry
  deriving DecidableEq, Repr

end Sys2Proof
end

