-- ==== Sys2Proof/Decode.lean ====
section
/-! DEFINITION. The rows of spec/opcode_table.json give no bits, so no word spells a command (log 22). The byte
encodings of the management messages (Chapter 11) are in Machine/Operands.lean. -/

namespace Sys2Proof

/-- The command that a word spells by the table's bits: none, since no row of the table gives bits (log 22). -/
def decodeTableWord (_nbits _w : Nat) : Option Instr :=
  none

end Sys2Proof
end

