-- ==== Sys2Proof/Config.lean ====
section
/-! DEFINITION. The free values: what the spec leaves open and the machine goes on. None has a body, so no proof can
see what it is. -/

namespace Sys2Proof

/-- Which of the internal events that are due is taken next on an empty queue (R19, R111; log 2). The argument is the
running count `State.choices`. -/
opaque Config.idleChoice : Nat → Nat

/-- Where an act of a flip is placed among the acts placed before it (R49, R87, R105, R123; log 11): the running count,
and how many acts have been placed. -/
opaque Config.flipPlace : Nat → Nat → Nat

/-- The index of a WR of RULES whose operand is too short to hold it (R171; log 13). -/
opaque Config.shortIndex : List Byte → Half

end Sys2Proof
end

