-- ==== Sys2Proof/Machine/Tables.lean ====
section
/-! DEFINITION. The seven screening tables of one bank (Chapter 2) and their generation-0 contents (Table 2-2). -/

namespace Sys2Proof.Machine

/-- The seven tables (Table 2-1). -/
inductive TableId where
  | station
  | groupmap
  | rules
  | flowmap
  | classpol
  | portpol
  | devpol
  deriving DecidableEq, Repr

/-- The two banks, and the values of the active selector (Table 3-1). -/
inductive BankSel where
  | a
  | b
  deriving DecidableEq, Repr

/-- A verdict of a STATION or PORTPOL entry. -/
inductive Verdict where
  | pass
  | drop
  deriving DecidableEq, Repr

/-- The match field of a STATION entry (Table 2-3). -/
inductive StationMatch where
  | dest
  | src
  | either
  deriving DecidableEq, Repr

/-- The class field of a STATION entry: a class, or FLOW. -/
inductive StationClass where
  | cls (c : TrafficClass)
  | flow
  deriving DecidableEq, Repr

/-- Table 2-3. -/
structure StationEntry where
  id : StationId
  matchField : StationMatch
  verdict : Verdict
  cls : StationClass
  capture : Bool
  manager : Bool
  valid : Bool
  deriving DecidableEq, Repr

/-- The arrival set of a rule (Table 2-5). -/
inductive ArrivalSet where
  | n
  | s
  | both
  deriving DecidableEq, Repr

/-- The action of a rule (Table 2-5). -/
inductive RuleAction where
  | drop
  | passAs
  | captureContinue
  deriving DecidableEq, Repr

/-- Table 2-5. -/
structure RuleEntry where
  enabled : Bool
  arrival : ArrivalSet
  minLength : Half
  anchor : Byte
  width : Byte
  mask : List Byte
  value : List Byte
  action : RuleAction
  cls : TrafficClass
  deriving DecidableEq, Repr

/-- Table 2-6. -/
structure ClassPol where
  ks : Byte
  kl : Byte
  cellLimit : Half
  ws : Word
  wl : Word
  residence : Word
  deriving DecidableEq, Repr

/-- Table 2-7. -/
structure PortPol where
  tc : Half
  dmax : Byte
  unmatched : Verdict
  deriving DecidableEq, Repr

/-- The capture mode of DEVPOL (Table 2-8). -/
inductive CaptureMode where
  | hold
  | ring
  deriving DecidableEq, Repr

/-- The admission of DEVPOL (Table 2-8). -/
inductive Admission where
  | any
  | listed
  deriving DecidableEq, Repr

/-- A notice target other than none (R36). -/
structure NoticeTarget where
  line : Line
  station : StationId
  deriving DecidableEq, Repr

/-- Table 2-8. -/
structure DevPol where
  captureMode : CaptureMode
  admission : Admission
  rA : Byte
  rB : Byte
  reserve : PerLine Half
  target : Option NoticeTarget
  defaultLease : Half
  deriving DecidableEq, Repr

/-- One complete set of the screening tables (R21). PORTPOL is indexed by its line. -/
structure Bank where
  station : Vector StationEntry 32
  groupmap : Vector Word 64
  rules : Vector RuleEntry 8
  flowmap : Vector TrafficClass 1024
  classpol : Vector ClassPol 16
  portpol : PerLine PortPol
  devpol : DevPol
  deriving DecidableEq, Repr

/-- R20: the power-on identity 3C0000nnH. -/
def powerOnIdentity (straps : BitVec 6) : StationId :=
  0x3C000000#32 ||| straps.setWidth 32

/-- R25: the fixed fields of STATION entry 0 around its ID. -/
def identityEntry (id : StationId) : StationEntry :=
  { id := id, matchField := .dest, verdict := .pass, cls := .cls 0, capture := false, manager := false, valid := true }

/-- Table 2-2, STATION 1 to 31. -/
def emptyStation : StationEntry :=
  { id := 0, matchField := .dest, verdict := .pass, cls := .cls 0, capture := false, manager := false, valid := false }

/-- Table 2-2, RULES. -/
def emptyRule : RuleEntry :=
  { enabled := false, arrival := .both, minLength := 20, anchor := 0, width := 1, mask := [0], value := [0],
    action := .drop, cls := 0 }

/-- Table 2-2, CLASSPOL. -/
def openClassPol : ClassPol :=
  { ks := 0, kl := 0, cellLimit := 1024, ws := 1000, wl := 1000, residence := 1000000 }

/-- Table 2-2, PORTPOL. -/
def openPortPol : PortPol :=
  { tc := 0, dmax := 8, unmatched := .pass }

/-- Table 2-2, DEVPOL. -/
def openDevPol : DevPol :=
  { captureMode := .hold, admission := .any, rA := 0, rB := 0, reserve := { n := 0, s := 0 }, target := none,
    defaultLease := 3000 }

/-- Table 2-2: the generation-0 contents of a bank, with the identity of the latched straps (R22). -/
def Bank.generation0 (straps : BitVec 6) : Bank :=
  { station := (Vector.replicate 32 emptyStation).set 0 (identityEntry (powerOnIdentity straps))
    groupmap := Vector.replicate 64 0xFFFFFFFF#32
    rules := Vector.replicate 8 emptyRule
    flowmap := Vector.replicate 1024 0
    classpol := Vector.replicate 16 openClassPol
    portpol := { n := openPortPol, s := openPortPol }
    devpol := openDevPol }

end Sys2Proof.Machine
end

