-- ==== Sys2Proof/Machine/Blocks.lean ====
section
/-! DEFINITION. The state of each block of the screen, as plain data. -/

namespace Sys2Proof.Machine

/-! ## Frames, descriptors and the line port -/

/-- Table 1-2. -/
inductive LineState where
  | down
  | aligning
  | up
  deriving DecidableEq, Repr

/-- The reception states of section 1.3. -/
inductive RxState where
  | idle
  | header
  | inspect
  | body
  | discard
  deriving DecidableEq, Repr

/-- The frame delimiter's record of the frame in progress (R8 to R12). `bytes` are the bytes received, an invalid
symbol as 00H, up to the 1028 bytes of the longest legal frame: the inspection window is the first 64 of them, the
check calculator is fed from them, and a stored frame takes its bytes from them (log 7). -/
structure Reception where
  state : RxState
  count : Nat
  symbolError : Bool
  declared : Option Nat
  bytes : List Byte
  deriving DecidableEq, Repr

/-- The receive side of one line port (section 1.2). -/
structure LinePort where
  line : LineState
  alignCount : Nat
  errorCount : Nat
  cleanCount : Nat
  rx : Reception
  deriving DecidableEq, Repr

/-- The states of a frame descriptor (Table 5-3). -/
inductive DescState where
  | receiving
  | queued
  | launching
  deriving DecidableEq, Repr

/-- Table 5-2, with the bytes that the frame's cells hold once it has been received. The egress line is the line
opposite the arrival line. -/
structure Descriptor where
  arrival : Line
  cls : TrafficClass
  total : Nat
  cells : Nat
  entry : Option Time
  state : DescState
  data : List Byte
  deriving DecidableEq, Repr

/-! ## Classifier -/

/-- Table 4-1. -/
inductive ClsState where
  | idle
  | judging
  | gathering
  | carrying
  | draining
  deriving DecidableEq, Repr

/-- The drop reasons of classification (Tables 4-3 and 4-5). -/
inductive DropReason where
  | length
  | screenAddressed
  | terminated
  | hop
  | ruleDrop
  | stationDrop
  | groupMiss
  | unmatchedDrop
  | queueLimit
  | noCell
  deriving DecidableEq, Repr

/-- The outcome of a frame (Table 4-2). -/
inductive FrameOutcome where
  | pending
  | management
  | pass (c : TrafficClass)
  | drop (r : DropReason)
  deriving DecidableEq, Repr

/-- The capture trigger (R69). -/
inductive Trigger where
  | rule (n : Fin 8)
  | station (n : Fin 32)
  deriving DecidableEq, Repr

/-- The header facts of Table 4-2. -/
structure HeaderFacts where
  dest : StationId
  src : StationId
  kind : Byte
  hop : Byte
  label : Fin 1024
  payload : Nat
  deriving DecidableEq, Repr

/-- The classifier of one arrival line: its state and its frame record (Tables 4-1 and 4-2). -/
structure Classifier where
  state : ClsState
  bank : BankSel
  generation : Word
  start : Time
  facts : Option HeaderFacts
  outcome : FrameOutcome
  trigger : Option Trigger
  reservation : Option Descriptor
  slot : Option (Fin 4)
  resetMark : Bool
  deriving DecidableEq, Repr

/-! ## Table store and cell pool -/

/-- The phase of the table store (Table 3-1). The adoption marks exist in ADOPTING only (R38), the time the copy began
in REFILLING only (R53). -/
inductive Phase where
  | steady
  | adopting (adopted : PerLine Bool)
  | refilling (begun : Time)
  deriving DecidableEq, Repr

/-- Table 3-1. -/
structure TableStore where
  bankA : Bank
  bankB : Bank
  active : BankSel
  generation : Word
  phase : Phase
  dirty : Bool
  deriving DecidableEq, Repr

/-- Table 5-1. -/
structure Pool where
  free : Nat
  used : PerLine Nat
  armed : Bool
  deriving DecidableEq, Repr

/-! ## Pacer, cadence, transmitter, service queue -/

/-- The head state of a class (Table 6-1). -/
inductive HeadState where
  | none
  | eligible
  | held
  deriving DecidableEq, Repr

/-- One lane of a launch pacer (Table 6-1); the history is oldest first. The ageing event is due 1,000,001 µs after the
oldest entry (log 9). -/
structure PacerLane where
  history : List Time
  head : HeadState
  release : Option Time
  deriving DecidableEq, Repr

/-- The cadence timer (Table 7-3). -/
inductive Timer where
  | stopped
  | running (due : Time)
  deriving DecidableEq, Repr

/-- Table 7-3; the debt is the length of the owed list (R116). -/
structure Cadence where
  timer : Timer
  owed : List Time
  forced : Bool
  seq : Half
  deriving DecidableEq, Repr

/-- The sort of a service frame (R114). -/
inductive ServiceSort where
  | reply
  | notice
  deriving DecidableEq, Repr

/-- The block that built a service frame (R114). -/
inductive Builder where
  | agent
  | noticeUnit
  deriving DecidableEq, Repr

/-- A service queue entry (R114). The frame is kept without its check word, which the launch computes (R139, log 8).
`awaited` marks the reply whose report lets a FULL reset take effect (R140, log 17). -/
structure ServiceEntry where
  frame : List Byte
  sort : ServiceSort
  builder : Builder
  awaited : Bool
  deriving DecidableEq, Repr

/-- Where the launched frame came from (Table 1-7). -/
inductive LaunchSource where
  | passed (d : Descriptor)
  | service (e : ServiceEntry)
  | cadence
  deriving DecidableEq, Repr

/-- A launch in progress: its start time and the T bytes sent between START and END (R16). -/
structure Launch where
  start : Time
  bytes : List Byte
  source : LaunchSource
  deriving DecidableEq, Repr

/-- How the last launch on a line ended: with END (R17) or with ABORT (R18); `none` before the first one. -/
inductive TxClose where
  | none
  | ended
  | aborted
  deriving DecidableEq, Repr

/-- The transmit side of a port: free, or busy with a launch. Free, it sends IDLE (R15). -/
structure Transmitter where
  launch : Option Launch
  close : TxClose
  deriving DecidableEq, Repr

/-! ## Management agent -/

/-- The command statuses (Table 9-5). -/
inductive Status where
  | ok
  | okUnchanged
  | notEditor
  | heldByOther
  | busy
  | badTable
  | badIndex
  | badValue
  | badCommand
  | notRun
  | truncated
  deriving DecidableEq, Repr

/-- One command of a request payload: its code and its operand bytes (Table 11-3). -/
structure Cmd where
  code : Byte
  ops : List Byte
  deriving DecidableEq, Repr

/-- The entry of a reply for one command (Table 11-4). -/
structure Result where
  code : Byte
  status : Status
  data : List Byte
  deriving DecidableEq, Repr

/-- The request in hand (R129, R137): its context, the fields its reply repeats, what has run and what is still to run.
`sections` holds the QUERY sections already read (R153, log 14); `full` says that RESET FULL ran with OK. -/
structure InHand where
  ctx : Fin 4
  line : Line
  src : StationId
  flow : Half
  seq : Half
  results : List Result
  toRun : List Cmd
  sections : List (List Byte)
  full : Bool
  deriving DecidableEq, Repr

/-- A request queue entry (Table 8-1). -/
structure Request where
  frame : List Byte
  line : Line
  deriving DecidableEq, Repr

/-- What the agent has in hand: nothing, a request taken from the queue and not yet begun (R128, log 28), a request
that runs, or the wait for the report on the reply that carries a FULL reset (R140). -/
inductive Hand where
  | none
  | taken (r : Request)
  | request (h : InHand)
  | awaitingReset
  deriving DecidableEq, Repr

/-- Table 8-2. -/
inductive AgentState where
  | waiting
  | executing
  | commitWait
  deriving DecidableEq, Repr

/-- The agent without its context table (sections 8.1 and 8.2). -/
structure Agent where
  state : AgentState
  queue : List Request
  hand : Hand
  deriving DecidableEq, Repr

/-- The lease of the EDITOR (Table 8-3, R142). -/
inductive Lease where
  | running (due : Time)
  | paused (remaining : Time)
  deriving DecidableEq, Repr

/-- The role of a context in use; the lease length and the lease exist for the EDITOR only (Table 8-3). -/
inductive Role where
  | reader
  | editor (length : Half) (lease : Lease)
  deriving DecidableEq, Repr

/-- A context in use (Table 8-3). A FREE context is `none` in the table. -/
structure Context where
  src : StationId
  line : Line
  lastSeq : Half
  reply : Option (List Byte)
  role : Role
  deriving DecidableEq, Repr

/-! ## Capture store and counter bank -/

/-- The fields of a capture record set at its claim (Table 10-2). -/
structure CaptureRecord where
  arrival : Line
  start : Time
  generation : Word
  trigger : Trigger
  total : Nat
  outcome : FrameOutcome
  deriving DecidableEq, Repr

/-- A capture slot (Table 10-1) with its record and bytes (Table 10-2). The captured length of a HELD slot is the
number of its bytes (R164). -/
inductive Slot where
  | empty
  | filling (r : CaptureRecord) (bytes : List Byte)
  | held (r : CaptureRecord) (bytes : List Byte)
  deriving DecidableEq, Repr

/-- The capture store (R161); `claims` lists the slots in use in the order of their claims, oldest first (R162). -/
structure CaptureStore where
  slots : Vector Slot 4
  claims : List (Fin 4)
  deriving DecidableEq, Repr

/-- One counter: a frame counter of 32 bits or an octet counter of 48 bits (R169). -/
inductive Counter where
  | frame (v : BitVec 32)
  | octet (v : BitVec 48)
  deriving DecidableEq, Repr

/-- The counters of the arrival line group (Table 10-6). -/
inductive ArrivalCounter where
  | framesReceived
  | octetsReceived
  | integrity
  | length
  | hop
  | screenAddressed
  | terminated
  | ruleDrop
  | stationDrop
  | groupMiss
  | unmatchedDrop
  | mgmtAccepted
  | mgmtOverflow
  | mgmtRefused
  deriving DecidableEq, Repr

/-- The counters of the egress line and class group (Table 10-6). -/
inductive ClassCounter where
  | accepted
  | launchedFrames
  | launchedOctets
  | queueLimit
  | noCell
  | residence
  | flush
  | launchAbort
  | windowHolds
  deriving DecidableEq, Repr

/-- The counters of the egress line group (Table 10-6). -/
inductive LineCounter where
  | cadenceFrames
  | forcedEntries
  | slips
  | serviceFrames
  | replyLost
  | noticeLost
  deriving DecidableEq, Repr

/-- The table hit counters (Table 10-6); `station i` is station entry i + 1. -/
inductive HitCounter where
  | station (i : Fin 31)
  | rule (r : Fin 8)
  | groupPass
  | groupMiss
  | unmatchedPass
  deriving DecidableEq, Repr

/-- The counters of the capture group (Table 10-6). -/
inductive CaptureCounter where
  | taken
  | missed
  deriving DecidableEq, Repr

/-- The name of one counter of the bank. -/
inductive CounterId where
  | arrival (l : Line) (k : ArrivalCounter)
  | egress (l : Line) (c : TrafficClass) (k : ClassCounter)
  | line (l : Line) (k : LineCounter)
  | hit (k : HitCounter)
  | capture (k : CaptureCounter)
  deriving DecidableEq, Repr

/-- One group and selector of STAT (R151). -/
inductive StatTarget where
  | arrival (l : Line)
  | egress (l : Line) (c : TrafficClass)
  | line (l : Line)
  | hits
  | capture
  deriving DecidableEq, Repr

/-- A notice event with its detail (Table 10-4). -/
inductive NoticeEvent where
  | captureTaken (slot : Fin 4)
  | cadenceForced (l : Line) (debt : Nat)
  | cadenceSlip (l : Line) (debt : Nat)
  | leaseExpired (ctx : Fin 4)
  | poolExhausted (l : Line)
  deriving DecidableEq, Repr

/-- What a classifier decides at steps 6 to 9: the outcome, the capture trigger and the hit counters that add 1. -/
structure Judgement where
  outcome : FrameOutcome
  trigger : Option Trigger
  hits : List HitCounter
  deriving DecidableEq, Repr

/-- The end verdict of a frame (R12). -/
inductive EndVerdict where
  | good
  | length
  | check
  deriving DecidableEq, Repr

/-- The judgement of a request's sequence (Table 8-4). -/
inductive SeqJudgement where
  | fresh
  | duplicate
  | stale
  deriving DecidableEq, Repr

/-- The acts of the blocks of line `p` at a flip (Table 3-4): the check of one class queue (R87), the evaluation of one
head (R105), the acts of the cadence unit (R123), and the arbiter's decision (R109). -/
inductive FlipAct where
  | queue (p : Line) (c : TrafficClass)
  | head (p : Line) (c : TrafficClass)
  | cadence (p : Line)
  | arbiter (p : Line)
  deriving DecidableEq, Repr

/-- The counter bank, in the five groups and the order of Table 10-6. -/
structure Counters where
  arrival : PerLine (Vector Counter 14)
  egress : PerLine (Vector (Vector Counter 9) 8)
  line : PerLine (Vector Counter 6)
  hits : Vector Counter 42
  capture : Vector Counter 2
  deriving DecidableEq, Repr

end Sys2Proof.Machine
end

