-- ==== Sys2Proof/Machine/PowerOn.lean ====
section
/-! DEFINITION. The power-on state of each block. -/

namespace Sys2Proof.Machine


/-- R7: no frame in progress. -/
def Reception.none : Reception :=
  { state := .idle, count := 0, symbolError := false, declared := Option.none, bytes := [] }

/-- R7: the line port at power-on. -/
def LinePort.powerOn : LinePort :=
  { line := .down, alignCount := 0, errorCount := 0, cleanCount := 0, rx := Reception.none }

/-- R58: the classifier IDLE with its record empty. -/
def Classifier.empty : Classifier :=
  { state := .idle, bank := .a, generation := 0, start := 0, facts := Option.none, outcome := .pending,
    trigger := Option.none, reservation := Option.none, slot := Option.none, resetMark := false }

/-- R38: the table store at power-on. -/
def TableStore.powerOn (straps : BitVec 6) : TableStore :=
  { bankA := Bank.generation0 straps, bankB := Bank.generation0 straps, active := .a, generation := 0,
    phase := .steady, dirty := false }

/-- R77, R80: the cell pool at power-on. -/
def Pool.powerOn : Pool :=
  { free := 1024, used := { n := 0, s := 0 }, armed := true }

/-- R108: a pacer lane at power-on. -/
def PacerLane.empty : PacerLane :=
  { history := [], head := .none, release := Option.none }

/-- R116: a cadence unit at power-on. -/
def Cadence.powerOn : Cadence :=
  { timer := .stopped, owed := [], forced := false, seq := 0 }

/-- R7: the transmitter free, before its first launch. -/
def Transmitter.powerOn : Transmitter :=
  { launch := Option.none, close := .none }

/-- R126, R128: the agent at power-on. -/
def Agent.powerOn : Agent :=
  { state := .waiting, queue := [], hand := .none }

/-- R161: every capture slot EMPTY. -/
def CaptureStore.empty : CaptureStore :=
  { slots := Vector.replicate 4 .empty, claims := [] }

/-- Table 10-6, arrival line group, every counter 0: the second counter is octets received. -/
def zeroArrival : Vector Counter 14 :=
  (Vector.replicate 14 (.frame 0)).set 1 (.octet 0)

/-- Table 10-6, egress line and class group, every counter 0: the third counter is launched octets. -/
def zeroEgress : Vector Counter 9 :=
  (Vector.replicate 9 (.frame 0)).set 2 (.octet 0)

/-- R169: every counter of the part 0. -/
def Counters.zero : Counters :=
  { arrival := { n := zeroArrival, s := zeroArrival }
    egress := { n := Vector.replicate 8 zeroEgress, s := Vector.replicate 8 zeroEgress }
    line := { n := Vector.replicate 6 (.frame 0), s := Vector.replicate 6 (.frame 0) }
    hits := Vector.replicate 42 (.frame 0)
    capture := Vector.replicate 2 (.frame 0) }

end Sys2Proof.Machine
end

