-- ==== Sys2Proof/Machine/State.lean ====
section
/-! DEFINITION. The state of the screen, as plain data, the reasons of a stop, and the state after reset. -/

namespace Sys2Proof.Machine


/-- The state of the screen: every item that the spec names (INVENTORY.md, State), the counter of free choices, and
the queue of the commands that are waiting. -/
structure State where
  resetLow : Bool
  straps : BitVec 6
  timebase : Time
  port : PerLine LinePort
  cls : PerLine Classifier
  store : TableStore
  pool : Pool
  queues : PerLine (Vector (List Descriptor) 8)
  pacer : PerLine (Vector PacerLane 8)
  cadence : PerLine Cadence
  service : PerLine (List ServiceEntry)
  tx : PerLine Transmitter
  offers : PerLine Nat
  agent : Agent
  contexts : Vector (Option Context) 4
  recency : List (Fin 4)
  capture : CaptureStore
  noticeSeq : Half
  counters : Counters
  choices : Nat
  pending : List Instr
  deriving DecidableEq, Repr

/-- Why the screen would stop with a fault: never. The spec gives every event and command an effect, or says that it
has none, so this type has no constructor (log 23); that no step faults is safe. -/
inductive Fault where
  deriving DecidableEq, Repr

/-- Why a command would be refused. -/
inductive Refusal where
  /-- Raised by `exec` alone, for a row with no meaning yet; there is none. Safe. -/
  | notModelled (mnemonic : String)
  deriving DecidableEq, Repr

/-- The power-on state of every block with RESETn high and these straps latched (R7, R20, R22, R38, R58, R77, R92, R97,
R115, R116, R126, R128, R130, R161, R167, R169). -/
def State.powerOn (straps : BitVec 6) : State :=
  { resetLow := false
    straps := straps
    timebase := 0
    port := { n := LinePort.powerOn, s := LinePort.powerOn }
    cls := { n := Classifier.empty, s := Classifier.empty }
    store := TableStore.powerOn straps
    pool := Pool.powerOn
    queues := { n := Vector.replicate 8 [], s := Vector.replicate 8 [] }
    pacer := { n := Vector.replicate 8 PacerLane.empty, s := Vector.replicate 8 PacerLane.empty }
    cadence := { n := Cadence.powerOn, s := Cadence.powerOn }
    service := { n := [], s := [] }
    tx := { n := Transmitter.powerOn, s := Transmitter.powerOn }
    offers := { n := 0, s := 0 }
    agent := Agent.powerOn
    contexts := Vector.replicate 4 Option.none
    recency := []
    capture := CaptureStore.empty
    noticeSeq := 0
    counters := Counters.zero
    choices := 0
    pending := [] }

/-- The machine right after the release of RESETn (R20), with the straps at 00H (log 6). -/
def State.reset : State :=
  State.powerOn 0

end Sys2Proof.Machine
end

