-- ==== Sys2Proof/Machine/Access.lean ====
section
/-! DEFINITION. Reading and replacing one copy of a per-line block, and the state's accessors. -/

namespace Sys2Proof

/-- The opposite line of a line (00_scope.md, Naming per-line state). -/
def Line.opposite : Line → Line
  | .n => .s
  | .s => .n

/-- The copy of line `l`. -/
def PerLine.get {α : Type} (x : PerLine α) : Line → α
  | .n => x.n
  | .s => x.s

/-- Replace the copy of line `l`. -/
def PerLine.set {α : Type} (x : PerLine α) (l : Line) (a : α) : PerLine α :=
  match l with
  | .n => { n := a, s := x.s }
  | .s => { n := x.n, s := a }

namespace Machine

/-- The other bank. -/
def BankSel.other : BankSel → BankSel
  | .a => .b
  | .b => .a

/-- The bank a selector names. -/
def TableStore.bank (t : TableStore) : BankSel → Bank
  | .a => t.bankA
  | .b => t.bankB

/-- The active bank (Table 3-1). -/
def TableStore.activeBank (t : TableStore) : Bank :=
  t.bank t.active

/-- The staging bank (Table 3-1). -/
def TableStore.stagingBank (t : TableStore) : Bank :=
  t.bank t.active.other

/-- Replace the staging bank. -/
def TableStore.setStaging (t : TableStore) (b : Bank) : TableStore :=
  match t.active with
  | .a => { t with bankB := b }
  | .b => { t with bankA := b }

/-- R27: the identity held in a bank. -/
def Bank.identity (b : Bank) : StationId :=
  b.station[(0 : Fin 32)].id

/-- R21: the CLASSPOL index of an egress line and class is 8 × line + class. -/
def classPolIndex (p : Line) (c : TrafficClass) : Fin 16 :=
  match p with
  | .n => c.castLE (by decide)
  | .s => c.natAdd 8

/-- The CLASSPOL entry of an egress line and class (R21). -/
def Bank.classPolOf (b : Bank) (p : Line) (c : TrafficClass) : ClassPol :=
  b.classpol[classPolIndex p c]

/-- The active bank, as every block but a classifier's judgement reads it (R43). -/
def State.active (s : State) : Bank :=
  s.store.activeBank

/-- The active CLASSPOL entry of an egress line and class (Table 3-3). -/
def State.classPol (s : State) (p : Line) (c : TrafficClass) : ClassPol :=
  s.active.classPolOf p c

/-- The active PORTPOL entry of an egress line (Table 3-3). -/
def State.portPol (s : State) (p : Line) : PortPol :=
  s.active.portpol.get p

/-- Class queue `c` of egress `p` (R82). -/
def State.queue (s : State) (p : Line) (c : TrafficClass) : List Descriptor :=
  (s.queues.get p)[c]

/-- The pacer lane of class `c` on line `p`. -/
def State.lane (s : State) (p : Line) (c : TrafficClass) : PacerLane :=
  (s.pacer.get p)[c]

/-- Line `p` is UP (Table 1-2). -/
def State.isUp (s : State) (p : Line) : Bool :=
  (s.port.get p).line = .up

/-- The transmitter of line `p` is free (R15). -/
def State.txFree (s : State) (p : Line) : Bool :=
  (s.tx.get p).launch.isNone

/-- The debt of line `p` (R116). -/
def State.debt (s : State) (p : Line) : Nat :=
  (s.cadence.get p).owed.length

/-- Classes 7 down to 0, the order of the arbiter (R110). -/
def classesDown : List TrafficClass :=
  [7, 6, 5, 4, 3, 2, 1, 0]

/-- Classes 0 to 7. -/
def classesUp : List TrafficClass :=
  [0, 1, 2, 3, 4, 5, 6, 7]

/-! ## Replacing one item of the state -/

def State.setPort (s : State) (l : Line) (p : LinePort) : State :=
  { s with port := s.port.set l p }

def State.setRx (s : State) (l : Line) (r : Reception) : State :=
  s.setPort l { s.port.get l with rx := r }

def State.setCls (s : State) (l : Line) (c : Classifier) : State :=
  { s with cls := s.cls.set l c }

def State.setQueue (s : State) (p : Line) (c : TrafficClass) (q : List Descriptor) : State :=
  { s with queues := s.queues.set p ((s.queues.get p).set c.val q c.isLt) }

def State.setLane (s : State) (p : Line) (c : TrafficClass) (x : PacerLane) : State :=
  { s with pacer := s.pacer.set p ((s.pacer.get p).set c.val x c.isLt) }

def State.setCadence (s : State) (p : Line) (c : Cadence) : State :=
  { s with cadence := s.cadence.set p c }

def State.setService (s : State) (p : Line) (q : List ServiceEntry) : State :=
  { s with service := s.service.set p q }

def State.setTx (s : State) (p : Line) (t : Transmitter) : State :=
  { s with tx := s.tx.set p t }

def State.setOffers (s : State) (p : Line) (k : Nat) : State :=
  { s with offers := s.offers.set p k }

def State.setPhase (s : State) (ph : Phase) : State :=
  { s with store := { s.store with phase := ph } }

def State.setAgent (s : State) (a : Agent) : State :=
  { s with agent := a }

def State.setContext (s : State) (i : Fin 4) (c : Option Context) : State :=
  { s with contexts := s.contexts.set i.val c i.isLt }

def State.setCapture (s : State) (c : CaptureStore) : State :=
  { s with capture := c }

end Machine

end Sys2Proof
end

