-- ==== Sys2Proof/Machine/Operands.lean ====
section
/-! DEFINITION. The byte layouts of Chapter 11: fields, frames, the check word, table entries, request and reply
payloads, and the operand forms of the commands. -/

namespace Sys2Proof.Machine

/-! ## Fields, most significant byte first -/

/-- Byte `i` of a byte list. -/
def byteAt (bs : List Byte) (i : Nat) : Byte :=
  bs.getD i 0

def be16 (a b : Byte) : Half :=
  a ++ b

def be32 (a b c d : Byte) : Word :=
  a ++ b ++ c ++ d

/-- The 16-bit field at offset `i`. -/
def halfAt (bs : List Byte) (i : Nat) : Half :=
  be16 (byteAt bs i) (byteAt bs (i + 1))

/-- The 32-bit field at offset `i`. -/
def wordAt (bs : List Byte) (i : Nat) : Word :=
  be32 (byteAt bs i) (byteAt bs (i + 1)) (byteAt bs (i + 2)) (byteAt bs (i + 3))

def bytes16 (v : Half) : List Byte :=
  [v.extractLsb' 8 8, v.extractLsb' 0 8]

def bytes32 (v : Word) : List Byte :=
  [v.extractLsb' 24 8, v.extractLsb' 16 8, v.extractLsb' 8 8, v.extractLsb' 0 8]

def bytes48 (v : BitVec 48) : List Byte :=
  [v.extractLsb' 40 8, v.extractLsb' 32 8, v.extractLsb' 24 8, v.extractLsb' 16 8, v.extractLsb' 8 8,
    v.extractLsb' 0 8]

/-- A number below 256 as a byte. -/
def byteOf (n : Nat) : Byte :=
  BitVec.ofNat 8 n

/-- A number below 65536 as two bytes. -/
def halfOf (n : Nat) : List Byte :=
  bytes16 (BitVec.ofNat 16 n)

/-! ## The check word -/

/-- R14 step 2: one bit is fed into the remainder. -/
def checkBit (r : Word) (b : Bool) : Word :=
  if r.msb = b then r <<< 1 else (r <<< 1) ^^^ 0x1EDC6F41#32

/-- R14 step 2: a byte is fed in most significant bit first. -/
def checkByte (r : Word) (b : Byte) : Word :=
  [7, 6, 5, 4, 3, 2, 1, 0].foldl (fun r i => checkBit r (b.getLsbD i)) r

/-- R14: the check word over these bytes. -/
def checkWord (bs : List Byte) : Word :=
  ~~~ (bs.foldl checkByte 0xFFFFFFFF#32)

/-! ## Frames -/

/-- The header of Table 11-1. -/
def header (dest src : StationId) (kind hop : Byte) (flow seq : Half) (length : Nat) : List Byte :=
  bytes32 dest ++ bytes32 src ++ [kind, hop] ++ bytes16 flow ++ bytes16 seq ++ halfOf length

/-- A frame built by the screen, without its check word (R173, log 8). -/
def buildFrame (dest src : StationId) (kind hop : Byte) (flow seq : Half) (payload : List Byte) : List Byte :=
  header dest src kind hop flow seq payload.length ++ payload

/-- The frame as sent: the check word is computed at launch over the bytes sent before it (R14, R16). -/
def withCheck (bs : List Byte) : List Byte :=
  bs ++ bytes32 (checkWord bs)

/-- The kind bytes of Table 11-1. -/
def kindCadence : Byte := 0x02#8
def kindRequest : Byte := 0x10#8
def kindReply : Byte := 0x11#8
def kindNotice : Byte := 0x12#8

/-- The header facts of a frame of which 16 bytes have been received (Tables 4-2 and 11-1, R31). -/
def headerFacts (bs : List Byte) : HeaderFacts :=
  { dest := wordAt bs 0
    src := wordAt bs 4
    kind := byteAt bs 8
    hop := byteAt bs 9
    label := Fin.ofNat 1024 (halfAt bs 10).toNat
    payload := (halfAt bs 14).toNat }

/-- The bytes of a passed frame as launched (Table 1-7): bytes 0 to 15 + L with hop minus 1 and a new check word. -/
def passedBytes (d : Descriptor) : List Byte :=
  let body := d.data.take (d.total - 4)
  withCheck (body.set 9 (byteAt body 9 - 1))

/-! ## Codes -/

/-- Table 11-2, line. -/
def lineCode : Line → Byte
  | .n => 0x00#8
  | .s => 0x01#8

/-- Table 11-2, table. -/
def TableId.code : TableId → Byte
  | .station => 0x01#8
  | .groupmap => 0x02#8
  | .rules => 0x03#8
  | .flowmap => 0x04#8
  | .classpol => 0x05#8
  | .portpol => 0x06#8
  | .devpol => 0x07#8

/-- The table a code names (Table 11-2). -/
def TableId.ofCode (b : Byte) : Option TableId :=
  if b = 0x01#8 then some .station
  else if b = 0x02#8 then some .groupmap
  else if b = 0x03#8 then some .rules
  else if b = 0x04#8 then some .flowmap
  else if b = 0x05#8 then some .classpol
  else if b = 0x06#8 then some .portpol
  else if b = 0x07#8 then some .devpol
  else none

/-- The number of entries of a table (Table 2-1). -/
def TableId.entries : TableId → Nat
  | .station => 32
  | .groupmap => 64
  | .rules => 8
  | .flowmap => 1024
  | .classpol => 16
  | .portpol => 2
  | .devpol => 1

/-- Table 11-2, command status. -/
def Status.code : Status → Byte
  | .ok => 0x00#8
  | .okUnchanged => 0x01#8
  | .notEditor => 0x10#8
  | .heldByOther => 0x11#8
  | .busy => 0x12#8
  | .badTable => 0x20#8
  | .badIndex => 0x21#8
  | .badValue => 0x22#8
  | .badCommand => 0x23#8
  | .notRun => 0x30#8
  | .truncated => 0x31#8

/-- Table 11-2, outcome; the outcomes a capture record cannot hold (R162) read as PASS (log 19). -/
def outcomeCode : FrameOutcome → Byte
  | .drop .ruleDrop => 0x01#8
  | .drop .stationDrop => 0x02#8
  | .drop .groupMiss => 0x03#8
  | .drop .unmatchedDrop => 0x04#8
  | .drop .queueLimit => 0x05#8
  | .drop .noCell => 0x06#8
  | _ => 0x00#8

/-- The command codes of Table 11-5. -/
def codeOpen : Byte := 0x01#8
def codeClose : Byte := 0x02#8
def codeRd : Byte := 0x10#8
def codeWr : Byte := 0x11#8
def codeFill : Byte := 0x12#8
def codeCommit : Byte := 0x13#8
def codeRevert : Byte := 0x14#8
def codeStat : Byte := 0x20#8
def codeCapt : Byte := 0x21#8
def codeFree : Byte := 0x22#8
def codeQuery : Byte := 0x23#8
def codeReset : Byte := 0x30#8

/-! ## Table entries (Table 11-6) -/

/-- A class byte 00H to 07H. -/
def classOfByte (b : Byte) : Option TrafficClass :=
  if h : b.toNat < 8 then some ⟨b.toNat, h⟩ else none

def classByte (c : TrafficClass) : Byte :=
  byteOf c.val

def stationClassOfByte (b : Byte) : Option StationClass :=
  if b = 0x0F#8 then some .flow else (classOfByte b).map .cls

def stationClassByte : StationClass → Byte
  | .cls c => classByte c
  | .flow => 0x0F#8

def matchOfByte (b : Byte) : Option StationMatch :=
  if b = 0#8 then some .dest else if b = 1#8 then some .src else if b = 2#8 then some .either else none

def matchByte : StationMatch → Byte
  | .dest => 0#8
  | .src => 1#8
  | .either => 2#8

def verdictOfByte (b : Byte) : Option Verdict :=
  if b = 0#8 then some .pass else if b = 1#8 then some .drop else none

def verdictByte : Verdict → Byte
  | .pass => 0#8
  | .drop => 1#8

def arrivalSetOfByte (b : Byte) : Option ArrivalSet :=
  if b = 1#8 then some .n else if b = 2#8 then some .s else if b = 3#8 then some .both else none

def arrivalSetByte : ArrivalSet → Byte
  | .n => 1#8
  | .s => 2#8
  | .both => 3#8

def actionOfByte (b : Byte) : Option RuleAction :=
  if b = 0#8 then some .drop else if b = 1#8 then some .passAs else if b = 2#8 then some .captureContinue else none

def actionByte : RuleAction → Byte
  | .drop => 0#8
  | .passAs => 1#8
  | .captureContinue => 2#8

def captureModeOfByte (b : Byte) : Option CaptureMode :=
  if b = 0#8 then some .hold else if b = 1#8 then some .ring else none

def captureModeByte : CaptureMode → Byte
  | .hold => 0#8
  | .ring => 1#8

def admissionOfByte (b : Byte) : Option Admission :=
  if b = 0#8 then some .any else if b = 1#8 then some .listed else none

def admissionByte : Admission → Byte
  | .any => 0#8
  | .listed => 1#8

/-- One bit of a flags byte. -/
def flagBit (b : Bool) (v : Byte) : Byte :=
  if b then v else 0#8

/-- STATION (8). Unnamed flag bits must be 0 (R172). -/
def decodeStation : List Byte → Option StationEntry
  | [a, b, c, d, m, v, k, f] =>
    match matchOfByte m, verdictOfByte v, stationClassOfByte k, f &&& 0xF8#8 == 0#8 with
    | some m, some v, some k, true =>
      some { id := be32 a b c d, matchField := m, verdict := v, cls := k, capture := f.getLsbD 1,
             manager := f.getLsbD 2, valid := f.getLsbD 0 }
    | _, _, _, _ => none
  | _ => none

def encodeStation (e : StationEntry) : List Byte :=
  bytes32 e.id ++
    [matchByte e.matchField, verdictByte e.verdict, stationClassByte e.cls,
      flagBit e.valid 1#8 ||| flagBit e.capture 2#8 ||| flagBit e.manager 4#8]

/-- GROUPMAP (4). -/
def decodeWord : List Byte → Option Word
  | [a, b, c, d] => some (be32 a b c d)
  | _ => none

/-- RULES (8 + 2W). -/
def decodeRule : List Byte → Option RuleEntry
  | f :: ar :: m0 :: m1 :: an :: w :: ac :: cl :: rest =>
    match f &&& 0xFE#8 == 0#8, arrivalSetOfByte ar, actionOfByte ac, classOfByte cl with
    | true, some ar, some ac, some cl =>
      some { enabled := f.getLsbD 0, arrival := ar, minLength := be16 m0 m1, anchor := an, width := w,
             mask := rest.take w.toNat, value := rest.drop w.toNat, action := ac, cls := cl }
    | _, _, _, _ => none
  | _ => none

def encodeRule (r : RuleEntry) : List Byte :=
  [flagBit r.enabled 1#8, arrivalSetByte r.arrival] ++ bytes16 r.minLength ++
    [r.anchor, r.width, actionByte r.action, classByte r.cls] ++ r.mask ++ r.value

/-- FLOWMAP (1). -/
def decodeFlow : List Byte → Option TrafficClass
  | [k] => classOfByte k
  | _ => none

/-- CLASSPOL (16). -/
def decodeClassPol : List Byte → Option ClassPol
  | [ks, kl, c0, c1, s0, s1, s2, s3, l0, l1, l2, l3, r0, r1, r2, r3] =>
    some { ks := ks, kl := kl, cellLimit := be16 c0 c1, ws := be32 s0 s1 s2 s3, wl := be32 l0 l1 l2 l3,
           residence := be32 r0 r1 r2 r3 }
  | _ => none

def encodeClassPol (e : ClassPol) : List Byte :=
  [e.ks, e.kl] ++ bytes16 e.cellLimit ++ bytes32 e.ws ++ bytes32 e.wl ++ bytes32 e.residence

/-- PORTPOL (4). -/
def decodePortPol : List Byte → Option PortPol
  | [t0, t1, d, v] =>
    (verdictOfByte v).map fun v => { tc := be16 t0 t1, dmax := d, unmatched := v }
  | _ => none

def encodePortPol (e : PortPol) : List Byte :=
  bytes16 e.tc ++ [e.dmax, verdictByte e.unmatched]

/-- The notice target of DEVPOL: line FFH with station 0 is none; no other line but N and S is a target (R172). -/
def decodeTarget (line : Byte) (station : StationId) : Option (Option NoticeTarget) :=
  if line = 0xFF#8 then (if station = 0 then some none else none)
  else if line = 0x00#8 then some (some { line := .n, station := station })
  else if line = 0x01#8 then some (some { line := .s, station := station })
  else none

def encodeTarget : Option NoticeTarget → List Byte
  | none => [0xFF#8] ++ bytes32 0
  | some t => [lineCode t.line] ++ bytes32 t.station

/-- DEVPOL (16). The reserved byte must be 00H (R172). -/
def decodeDevPol : List Byte → Option DevPol
  | [cm, ad, ra, rb, n0, n1, s0, s1, tl, t0, t1, t2, t3, l0, l1, z] =>
    match captureModeOfByte cm, admissionOfByte ad, decodeTarget tl (be32 t0 t1 t2 t3), z == 0#8 with
    | some cm, some ad, some tg, true =>
      some { captureMode := cm, admission := ad, rA := ra, rB := rb, reserve := { n := be16 n0 n1, s := be16 s0 s1 },
             target := tg, defaultLease := be16 l0 l1 }
    | _, _, _, _ => none
  | _ => none

def encodeDevPol (e : DevPol) : List Byte :=
  [captureModeByte e.captureMode, admissionByte e.admission, e.rA, e.rB] ++ bytes16 e.reserve.n ++
    bytes16 e.reserve.s ++ encodeTarget e.target ++ bytes16 e.defaultLease ++ [0#8]

/-! ## Write-time checks (Table 2-10) -/

/-- R25: entry 0 carries the identity and nothing else. -/
def StationEntry.okIdentity (e : StationEntry) : Bool :=
  e.valid && e.id != 0 && !e.id.msb && e.matchField == .dest && e.verdict == .pass && e.cls == .cls 0 &&
    !e.capture && !e.manager

/-- R26: a valid entry 1 to 31 has a non-zero ID. -/
def StationEntry.okListed (e : StationEntry) : Bool :=
  !e.valid || e.id != 0

/-- R25, R26. -/
def StationEntry.okAt (e : StationEntry) (i : Nat) : Bool :=
  if i = 0 then e.okIdentity else e.okListed

/-- R29, R30. -/
def RuleEntry.ok (r : RuleEntry) : Bool :=
  20 ≤ r.minLength.toNat && r.minLength.toNat ≤ 1028 && r.anchor.toNat ≤ 63 && 1 ≤ r.width.toNat &&
    r.width.toNat ≤ 16 && r.anchor.toNat + r.width.toNat ≤ 64 && r.mask.length == r.width.toNat &&
    r.value.length == r.width.toNat && (r.mask.zip r.value).all (fun x => x.2 &&& ~~~ x.1 == 0#8) &&
    (r.action == .passAs || r.cls == 0)

/-- R32. -/
def ClassPol.ok (e : ClassPol) : Bool :=
  e.ks.toNat ≤ 32 && e.kl.toNat ≤ 32 && 1 ≤ e.ws.toNat && e.ws.toNat ≤ 1000000 && 1 ≤ e.wl.toNat &&
    e.wl.toNat ≤ 1000000 && 1 ≤ e.cellLimit.toNat && e.cellLimit.toNat ≤ 1024 && 1 ≤ e.residence.toNat &&
    e.residence.toNat ≤ 1000000

/-- R33. -/
def PortPol.ok (e : PortPol) : Bool :=
  (e.tc == 0 || 50 ≤ e.tc.toNat) && 1 ≤ e.dmax.toNat && e.dmax.toNat ≤ 8

/-- R34 to R37. -/
def DevPol.ok (e : DevPol) : Bool :=
  e.reserve.n.toNat ≤ 1024 && e.reserve.s.toNat ≤ 1024 && e.reserve.n.toNat + e.reserve.s.toNat ≤ 1024 &&
    e.rA.toNat ≤ 31 && e.rB.toNat ≤ 31 && 10 ≤ e.defaultLease.toNat && e.defaultLease.toNat ≤ 60000 &&
    (match e.target with
      | none => true
      | some t => t.station != 0)

/-- A decoded entry that its check passes. -/
def checked {α : Type} (ok : α → Bool) : Option α → Option α
  | some e => if ok e then some e else none
  | none => none

/-! ## Writing and reading entries -/

/-- R23 step 3: one entry of a bank replaced whole by a written value; `none` is BAD_VALUE. -/
def Bank.write (b : Bank) (t : TableId) (i : Nat) (bs : List Byte) : Option Bank :=
  match t with
  | .station => (checked (·.okAt i) (decodeStation bs)).map fun e => { b with station := b.station.setIfInBounds i e }
  | .groupmap => (decodeWord bs).map fun e => { b with groupmap := b.groupmap.setIfInBounds i e }
  | .rules => (checked RuleEntry.ok (decodeRule bs)).map fun e => { b with rules := b.rules.setIfInBounds i e }
  | .flowmap => (decodeFlow bs).map fun e => { b with flowmap := b.flowmap.setIfInBounds i e }
  | .classpol => (checked ClassPol.ok (decodeClassPol bs)).map fun e =>
      { b with classpol := b.classpol.setIfInBounds i e }
  | .portpol => (checked PortPol.ok (decodePortPol bs)).map fun e =>
      { b with portpol := b.portpol.set (if i = 0 then .n else .s) e }
  | .devpol => (checked DevPol.ok (decodeDevPol bs)).map fun e => { b with devpol := e }

/-- R24: every covered entry of a table replaced by a written value; `none` is BAD_VALUE. FILL of STATION leaves
entry 0. -/
def Bank.fill (b : Bank) (t : TableId) (bs : List Byte) : Option Bank :=
  match t with
  | .station => (checked StationEntry.okListed (decodeStation bs)).map fun e =>
      { b with station := (Vector.replicate 32 e).set 0 b.station[(0 : Fin 32)] }
  | .groupmap => (decodeWord bs).map fun e => { b with groupmap := Vector.replicate 64 e }
  | .rules => (checked RuleEntry.ok (decodeRule bs)).map fun e => { b with rules := Vector.replicate 8 e }
  | .flowmap => (decodeFlow bs).map fun e => { b with flowmap := Vector.replicate 1024 e }
  | .classpol => (checked ClassPol.ok (decodeClassPol bs)).map fun e => { b with classpol := Vector.replicate 16 e }
  | .portpol => (checked PortPol.ok (decodePortPol bs)).map fun e => { b with portpol := { n := e, s := e } }
  | .devpol => (checked DevPol.ok (decodeDevPol bs)).map fun e => { b with devpol := e }

/-- The first index that a FILL of a table covers, named in its BAD_VALUE (R24, R171). -/
def TableId.fillFirst : TableId → Nat
  | .station => 1
  | _ => 0

/-- One entry of a bank in the encoding of Table 11-6. -/
def Bank.entryBytes (b : Bank) (t : TableId) (i : Nat) : List Byte :=
  match t with
  | .station => (b.station[i]?.map encodeStation).getD []
  | .groupmap => (b.groupmap[i]?.map bytes32).getD []
  | .rules => (b.rules[i]?.map encodeRule).getD []
  | .flowmap => (b.flowmap[i]?.map fun c => [classByte c]).getD []
  | .classpol => (b.classpol[i]?.map encodeClassPol).getD []
  | .portpol => encodePortPol (b.portpol.get (if i = 0 then .n else .s))
  | .devpol => encodeDevPol b.devpol

/-! ## Operand forms (R171) -/

/-- The entry size of a table of fixed size; none for RULES, whose size the W byte gives. -/
def TableId.fixedSize : TableId → Option Nat
  | .station => some 8
  | .groupmap => some 4
  | .rules => none
  | .flowmap => some 1
  | .classpol => some 16
  | .portpol => some 4
  | .devpol => some 16

/-- R171 for WR (`lead` 3) and FILL (`lead` 1): the operand length is the one the named table takes. A table code that
names no table is held to no length, nor is RULES with its W byte missing or outside 1 to 16. An operand of no byte
names no table code and has no right length (log 12). -/
def entryFormOk (lead : Nat) (ops : List Byte) : Bool :=
  match ops with
  | [] => false
  | t :: _ =>
    match TableId.ofCode t with
    | none => true
    | some tb =>
      match tb.fixedSize with
      | some k => ops.length == lead + k
      | none =>
        match ops[lead + 5]? with
        | none => true
        | some w => if 1 ≤ w.toNat ∧ w.toNat ≤ 16 then ops.length == lead + 8 + 2 * w.toNat else true

/-- The index operand of WR. An operand too short to hold it, which R171 lets through for RULES, gives a free value
(log 13). -/
def wrIndex (ops : List Byte) : Half :=
  if 3 ≤ ops.length then halfAt ops 1 else Config.shortIndex ops

/-! ## Requests and replies -/

/-- R136: the commands of a payload after its header, `n` of them and no more bytes. -/
def parseCommands : Nat → List Byte → Option (List Cmd)
  | 0, [] => some []
  | 0, _ :: _ => none
  | n + 1, c :: k :: rest =>
    if k.toNat ≤ rest.length then
      (parseCommands n (rest.drop k.toNat)).map fun cs => { code := c, ops := rest.take k.toNat } :: cs
    else none
  | _ + 1, _ => none

/-- R136: a request payload; `none` is malformed. -/
def parsePayload : List Byte → Option (List Cmd)
  | f :: n :: _ :: _ :: rest =>
    if f = 0#8 ∧ 1 ≤ n.toNat ∧ n.toNat ≤ 32 then parseCommands n.toNat rest else none
  | _ => none

/-- The payload of a received frame. -/
def payloadOf (frame : List Byte) : List Byte :=
  (frame.drop 16).take (halfAt frame 14).toNat

/-- One entry of a reply (Table 11-4). -/
def Result.bytes (r : Result) : List Byte :=
  [r.code, r.status.code] ++ halfOf r.data.length ++ r.data

/-- The reply payload of Table 11-4. -/
def replyPayload (requestStatus : Byte) (generation : Word) (results : List Result) : List Byte :=
  [requestStatus] ++ bytes32 generation ++ [byteOf results.length] ++ (results.map Result.bytes).flatten

/-! ## Lists fitted into a reply (R138, R146) -/

/-- The leading whole items that fit in the room. -/
def fitItems : Nat → List (List Byte) → List (List Byte)
  | _, [] => []
  | room, x :: xs => if x.length ≤ room then x :: fitItems (room - x.length) xs else []

/-- R146: the room for the result of the command being run: 1008 bytes less the 6 fixed bytes, the 4-byte head of every
command, the data of the commands before and 8 bytes for each command after. -/
def resultRoom (h : InHand) : Nat :=
  1008 - (6 + 4 * (h.results.length + h.toRun.length) + (h.results.map (·.data.length)).sum +
    8 * (h.toRun.length - 1))

/-! ## Notices, cadence frames, capture records -/

/-- Table 11-7: the code and the three detail bytes of a notice event. -/
def NoticeEvent.bytes : NoticeEvent → List Byte
  | .captureTaken k => [0x01#8, byteOf k.val, 0#8, 0#8]
  | .cadenceForced l d => [0x02#8, lineCode l, byteOf d, 0#8]
  | .cadenceSlip l d => [0x03#8, lineCode l, byteOf d, 0#8]
  | .leaseExpired i => [0x04#8, byteOf i.val, 0#8, 0#8]
  | .poolExhausted l => [0x05#8, lineCode l, 0#8, 0#8]

/-- Table 11-7, cadence payload. -/
def cadencePayload (owed : Time) (debtAfter : Nat) (dmax : Byte) : List Byte :=
  bytes32 owed ++ [byteOf debtAfter, dmax, 0#8, 0#8]

/-- Table 11-9, trigger kind and number. -/
def triggerBytes : Trigger → List Byte
  | .rule n => [0x00#8, byteOf n.val]
  | .station n => [0x01#8, byteOf n.val]

/-- Table 11-9, class byte. -/
def outcomeClassByte : FrameOutcome → Byte
  | .pass c => classByte c
  | _ => 0x00#8

/-- Table 11-9, the record of a HELD slot. -/
def recordBytes (r : CaptureRecord) (captured : Nat) : List Byte :=
  [lineCode r.arrival] ++ bytes32 r.start ++ bytes32 r.generation ++ triggerBytes r.trigger ++ halfOf r.total ++
    [byteOf captured, outcomeCode r.outcome, outcomeClassByte r.outcome]

end Sys2Proof.Machine
end

