-- ==== Sys2Proof/Machine/Flags.lean ====
section
/-! DEFINITION. The pure tests and computations of the blocks: counters, ages and windows, the pool's grant test, the
sequence rule, the end verdict of a frame, the group-map probes and the judgement of a frame. -/

namespace Sys2Proof.Machine

/-! ## Counters (R169) -/

/-- R169: a counter adds `n` and saturates at its maximum. -/
def Counter.add : Counter → Nat → Counter
  | .frame v, n => .frame (BitVec.ofNat 32 (min (v.toNat + n) 0xFFFFFFFF))
  | .octet v, n => .octet (BitVec.ofNat 48 (min (v.toNat + n) 0xFFFFFFFFFFFF))

/-- The counter set to 0 (R169). -/
def Counter.clear : Counter → Counter
  | .frame _ => .frame 0
  | .octet _ => .octet 0

/-- A frame counter is 4 bytes and an octet counter 6 (Table 9-2). -/
def Counter.bytes : Counter → List Byte
  | .frame v => bytes32 v
  | .octet v => bytes48 v

/-- The reading of a counter. -/
def Counter.toNat : Counter → Nat
  | .frame v => v.toNat
  | .octet v => v.toNat

/-- The place of a counter in its group (Table 10-6). -/
def ArrivalCounter.index : ArrivalCounter → Fin 14
  | .framesReceived => 0
  | .octetsReceived => 1
  | .integrity => 2
  | .length => 3
  | .hop => 4
  | .screenAddressed => 5
  | .terminated => 6
  | .ruleDrop => 7
  | .stationDrop => 8
  | .groupMiss => 9
  | .unmatchedDrop => 10
  | .mgmtAccepted => 11
  | .mgmtOverflow => 12
  | .mgmtRefused => 13

def ClassCounter.index : ClassCounter → Fin 9
  | .accepted => 0
  | .launchedFrames => 1
  | .launchedOctets => 2
  | .queueLimit => 3
  | .noCell => 4
  | .residence => 5
  | .flush => 6
  | .launchAbort => 7
  | .windowHolds => 8

def LineCounter.index : LineCounter → Fin 6
  | .cadenceFrames => 0
  | .forcedEntries => 1
  | .slips => 2
  | .serviceFrames => 3
  | .replyLost => 4
  | .noticeLost => 5

def HitCounter.index : HitCounter → Fin 42
  | .station i => i.castLE (by decide)
  | .rule r => (r.natAdd 31).castLE (by decide)
  | .groupPass => 39
  | .groupMiss => 40
  | .unmatchedPass => 41

def CaptureCounter.index : CaptureCounter → Fin 2
  | .taken => 0
  | .missed => 1

/-- One counter of a group adds `n`. -/
def bump {k : Nat} (v : Vector Counter k) (i : Fin k) (n : Nat) : Vector Counter k :=
  v.set i.val (v[i].add n) i.isLt

/-- The named counter adds `n` (R169). -/
def Counters.add (b : Counters) (id : CounterId) (n : Nat) : Counters :=
  match id with
  | .arrival l k => { b with arrival := b.arrival.set l (bump (b.arrival.get l) k.index n) }
  | .egress l c k =>
    { b with egress := b.egress.set l ((b.egress.get l).set c.val (bump (b.egress.get l)[c] k.index n) c.isLt) }
  | .line l k => { b with line := b.line.set l (bump (b.line.get l) k.index n) }
  | .hit k => { b with hits := bump b.hits k.index n }
  | .capture k => { b with capture := bump b.capture k.index n }

/-- The named counter of the bank. -/
def Counters.read (b : Counters) : CounterId → Counter
  | .arrival l k => (b.arrival.get l)[k.index]
  | .egress l c k => (b.egress.get l)[c][k.index]
  | .line l k => (b.line.get l)[k.index]
  | .hit k => b.hits[k.index]
  | .capture k => b.capture[k.index]

/-- The first `k` counters of a group set to 0 (R170). -/
def clearFirst {n : Nat} (v : Vector Counter n) (k : Nat) : Vector Counter n :=
  Vector.ofFn fun i => if i.val < k then v[i].clear else v[i]

/-- The counters that STAT reads, in the order of Table 10-6 (R151). -/
def Counters.group (b : Counters) : StatTarget → List Counter
  | .arrival l => (b.arrival.get l).toList
  | .egress l c => (b.egress.get l)[c].toList
  | .line l => (b.line.get l).toList
  | .hits => b.hits.toList
  | .capture => b.capture.toList

/-- The first `k` counters of the group that STAT names set to 0 (R138, R170). -/
def Counters.clearGroup (b : Counters) (t : StatTarget) (k : Nat) : Counters :=
  match t with
  | .arrival l => { b with arrival := b.arrival.set l (clearFirst (b.arrival.get l) k) }
  | .egress l c =>
    { b with egress := b.egress.set l ((b.egress.get l).set c.val (clearFirst (b.egress.get l)[c] k) c.isLt) }
  | .line l => { b with line := b.line.set l (clearFirst (b.line.get l) k) }
  | .hits => { b with hits := clearFirst b.hits k }
  | .capture => { b with capture := clearFirst b.capture k }

/-- R151: the group code and selector of STAT. The outer `none` is a group that names none of the five, the inner
`none` a selector outside the group's range. -/
def statTarget (group selector : Byte) : Option (Option StatTarget) :=
  if group = 0x00#8 then
    some (if selector = 0 then some (.arrival .n) else if selector = 1 then some (.arrival .s) else none)
  else if group = 0x01#8 then
    some (if h : selector.toNat < 8 then some (.egress .n ⟨selector.toNat, h⟩)
      else if h : selector.toNat - 8 < 8 then some (.egress .s ⟨selector.toNat - 8, h⟩) else none)
  else if group = 0x02#8 then
    some (if selector = 0 then some (.line .n) else if selector = 1 then some (.line .s) else none)
  else if group = 0x03#8 then some (if selector = 0 then some .hits else none)
  else if group = 0x04#8 then some (if selector = 0 then some .capture else none)
  else none

/-! ## Time, windows and residence -/

/-- 00_scope.md, Time: the age of a recorded time, modulo 2 to the 32nd power. -/
def age (now t : Time) : Nat :=
  (now - t).toNat

/-- R98: how many entries of a history are younger than a span. -/
def younger (now : Time) (h : List Time) (span : Nat) : Nat :=
  h.countP fun t => age now t < span

/-- R98: one tier of the eligibility test. -/
def tierAllows (now : Time) (h : List Time) (k span : Nat) : Bool :=
  k == 0 || younger now h span < k

/-- R98: both tiers of the window. -/
def windowAllows (now : Time) (h : List Time) (p : ClassPol) : Bool :=
  tierAllows now h p.ks.toNat p.ws.toNat && tierAllows now h p.kl.toNat p.wl.toNat

/-- R104: both tiers as they stand before the events of this reading are taken: an entry whose age equals its span
still counts. -/
def windowAllowsBefore (now : Time) (h : List Time) (p : ClassPol) : Bool :=
  tierAllows now h p.ks.toNat (p.ws.toNat + 1) && tierAllows now h p.kl.toNat (p.wl.toNat + 1)

/-- R102: how long a blocking tier still blocks: until its k-th newest entry reaches the span. -/
def tierWait (now : Time) (h : List Time) (k span : Nat) : Nat :=
  if tierAllows now h k span then 0
  else
    match h.reverse[k - 1]? with
    | some t => span - age now t
    | none => 0

/-- R102: the later of the times from which the blocking tiers allow the head. -/
def releaseTime (now : Time) (h : List Time) (p : ClassPol) : Time :=
  now + BitVec.ofNat 32 (max (tierWait now h p.ks.toNat p.ws.toNat) (tierWait now h p.kl.toNat p.wl.toNat))

/-- R96: the ageing event is due 1,000,001 µs after the oldest entry (log 9). -/
def ageingDue (h : List Time) : Option Time :=
  h.head?.map (· + 1000001#32)

/-- R95: a launch start is appended after the oldest entry of a full history is removed. -/
def appendHistory (h : List Time) (t : Time) : List Time :=
  (if h.length < 32 then h else h.drop 1) ++ [t]

/-- R85: the age of a queued descriptor has reached the residence limit. -/
def overdue (now : Time) (limit : Word) (d : Descriptor) : Bool :=
  match d.entry with
  | some t => limit.toNat ≤ age now t
  | none => false

/-! ## Cell pool (R78) -/

/-- R70: k = ceil(T / 64). -/
def cellsFor (total : Nat) : Nat :=
  (total + 63) / 64

/-- R78: the reserve of a direction that its used count does not cover. -/
def unusedReserve (reserve used : Nat) : Nat :=
  reserve - used

/-- R78: the grant test for `k` cells for egress `e`. -/
def grantTest (p : Pool) (d : DevPol) (e : Line) (k : Nat) : Bool :=
  k ≤ p.free &&
    (p.used.get e + k ≤ (d.reserve.get e).toNat ||
      unusedReserve (d.reserve.get e.opposite).toNat (p.used.get e.opposite) ≤ p.free - k)

/-- R77: a grant. -/
def Pool.take (p : Pool) (e : Line) (k : Nat) : Pool :=
  { p with free := p.free - k, used := p.used.set e (p.used.get e + k) }

/-- R79, R80: a release, then the re-arming test. -/
def Pool.give (p : Pool) (e : Line) (k : Nat) : Pool :=
  { free := p.free + k, used := p.used.set e (p.used.get e - k), armed := p.armed || 64 < p.free + k }

/-! ## Generation, sequence, lease -/

/-- R39: one more than FFFFFFFFH is taken as 1. -/
def nextGeneration (g : Word) : Word :=
  if g = 0xFFFFFFFF#32 then 1 else g + 1

/-- Table 8-4, for a context already in use with last sequence `l`. -/
def judgeSequence (s l : Half) : SeqJudgement :=
  if s = l then .duplicate else if (s - l).toNat ≤ 32768 then .fresh else .stale

/-- R142: the full length of a lease, in µs. -/
def leaseSpan (length : Half) : Time :=
  BitVec.ofNat 32 (length.toNat * 10000)

/-! ## Frame end (R12) -/

/-- R12: the end verdict of a frame whose END has been received. -/
def endVerdict (r : Reception) : EndVerdict :=
  match r.declared with
  | none => .length
  | some total =>
    if r.count ≠ total ∨ 1028 < total then .length
    else if r.symbolError || checkWord (r.bytes.take (total - 4)) != wordAt r.bytes (total - 4) then .check
    else .good

/-! ## The judgement of a frame (R60 to R68) -/

/-- R60, R61: the outcome of steps 1 to 5; PENDING when no step of the header decides. -/
def judgeHeader (identity : StationId) (f : HeaderFacts) : FrameOutcome :=
  if 1008 < f.payload then .drop .length
  else if f.dest = identity then (if f.kind = kindRequest then .management else .drop .screenAddressed)
  else if f.kind = kindCadence then .drop .terminated
  else if f.hop = 0 then .drop .hop
  else .pending

/-- R64: the rule is tried on frames of this arrival line. -/
def RuleEntry.triedOn (r : RuleEntry) (arrival : Line) : Bool :=
  r.enabled &&
    (match r.arrival, arrival with
      | .both, _ => true
      | .n, .n => true
      | .s, .s => true
      | _, _ => false)

/-- R64: a tried rule matches a frame of declared total length `total` with this inspection window. -/
def RuleEntry.matchesFrame (r : RuleEntry) (total : Nat) (window : List Byte) : Bool :=
  r.minLength.toNat ≤ total && r.anchor.toNat + r.width.toNat ≤ window.length &&
    (List.range r.width.toNat).all fun i =>
      byteAt window (r.anchor.toNat + i) &&& byteAt r.mask i == byteAt r.value i

/-- R65, R69: step 6 over the rules still to be tried. The first mark sets the trigger. PENDING when no rule
decides. -/
def scanRules (arrival : Line) (total : Nat) (window : List Byte) :
    List (Fin 8 × RuleEntry) → Option Trigger → List HitCounter → Judgement
  | [], t, hits => { outcome := .pending, trigger := t, hits := hits }
  | (i, r) :: rest, t, hits =>
    if r.triedOn arrival && r.matchesFrame total window then
      match r.action with
      | .drop => { outcome := .drop .ruleDrop, trigger := t, hits := hits ++ [.rule i] }
      | .passAs => { outcome := .pass r.cls, trigger := t, hits := hits ++ [.rule i] }
      | .captureContinue => scanRules arrival total window rest (t.or (some (.rule i))) (hits ++ [.rule i])
    else scanRules arrival total window rest t hits

/-- R66: a valid entry agrees with the frame by its match field. -/
def StationEntry.agrees (e : StationEntry) (f : HeaderFacts) : Bool :=
  e.valid &&
    (match e.matchField with
      | .dest => f.dest == e.id
      | .src => f.src == e.id
      | .either => f.dest == e.id || f.src == e.id)

/-- R66: the lowest-index entry among 1 to 31 that agrees; `i` stands for entry i + 1. -/
def Bank.findStation (b : Bank) (f : HeaderFacts) : Option (Fin 31) :=
  (List.finRange 31).find? fun i => b.station[i.succ].agrees f

/-- R31: the FLOWMAP class of a flow label. -/
def Bank.flowClass (b : Bank) (f : HeaderFacts) : TrafficClass :=
  b.flowmap[f.label]

/-- R67: probe A. -/
def probeA (d : StationId) (rA : Byte) : BitVec 11 :=
  (d.setWidth 11).rotateRight rA.toNat

/-- R67: probe B. -/
def probeB (d : StationId) (rB : Byte) : BitVec 11 :=
  ((d.rotateRight 16 ^^^ d).setWidth 11).rotateRight rB.toNat

/-- R28: position `k` of the group map lies in word k div 32 at bit k mod 32. -/
def Bank.groupPosition (b : Bank) (k : BitVec 11) : Bool :=
  (b.groupmap[k.toNat / 32]'(by have := k.isLt; omega)).getLsbD (k.toNat % 32)

/-- R67: both probe positions of a group destination are set. -/
def Bank.groupPasses (b : Bank) (d : StationId) : Bool :=
  b.groupPosition (probeA d b.devpol.rA) && b.groupPosition (probeB d b.devpol.rB)

/-- R66: what the deciding station entry does with the frame. -/
def Bank.stationOutcome (b : Bank) (e : StationEntry) (f : HeaderFacts) : FrameOutcome :=
  match e.verdict, e.cls with
  | .drop, _ => .drop .stationDrop
  | .pass, .cls c => .pass c
  | .pass, .flow => .pass (b.flowClass f)

/-- R67, R68: steps 8 and 9, with the hit counter that adds 1. -/
def Bank.lastSteps (b : Bank) (arrival : Line) (f : HeaderFacts) : FrameOutcome × List HitCounter :=
  if f.dest.msb then
    if b.groupPasses f.dest then (.pass (b.flowClass f), [.groupPass]) else (.drop .groupMiss, [.groupMiss])
  else
    match (b.portpol.get arrival.opposite).unmatched with
    | .pass => (.pass (b.flowClass f), [.unmatchedPass])
    | .drop => (.drop .unmatchedDrop, [])

/-- The rules of a bank with their numbers, in index order. -/
def Bank.numberedRules (b : Bank) : List (Fin 8 × RuleEntry) :=
  (List.finRange 8).map fun i => (i, b.rules[i])

/-- R63 to R69: steps 6 to 9 on a PENDING frame, under the frame's own bank. -/
def Bank.judge (b : Bank) (arrival : Line) (f : HeaderFacts) (window : List Byte) : Judgement :=
  let j := scanRules arrival (20 + f.payload) window b.numberedRules none []
  if j.outcome ≠ .pending then j
  else
    match b.findStation f with
    | some i =>
      let e := b.station[i.succ]
      { outcome := b.stationOutcome e f
        trigger := if e.capture then j.trigger.or (some (.station i.succ)) else j.trigger
        hits := j.hits ++ [.station i] }
    | none =>
      let r := b.lastSteps arrival f
      { outcome := r.1, trigger := j.trigger, hits := j.hits ++ r.2 }

/-- The arrival line counter of a drop reason that counts there (Table 4-5). -/
def DropReason.arrivalCounter : DropReason → Option ArrivalCounter
  | .length => some .length
  | .screenAddressed => some .screenAddressed
  | .terminated => some .terminated
  | .hop => some .hop
  | .ruleDrop => some .ruleDrop
  | .stationDrop => some .stationDrop
  | .groupMiss => some .groupMiss
  | .unmatchedDrop => some .unmatchedDrop
  | .queueLimit => none
  | .noCell => none

/-! ## Commit-time checks (R47) and admission (R126) -/

/-- A STATION entry 1 to 31 is valid and carries the manager flag. -/
def Bank.listsManager (b : Bank) (ok : StationId → Bool) : Bool :=
  (List.finRange 31).any fun i =>
    b.station[i.succ].valid && b.station[i.succ].manager && ok b.station[i.succ].id

/-- R47: the two commit-time checks of the staging bank. -/
def Bank.commitOk (b : Bank) : Bool :=
  (b.devpol.admission == .any || b.listsManager fun _ => true) &&
    (match b.devpol.target with
      | none => true
      | some t => t.station != b.identity)

/-- R126: the source may manage the screen under this bank. -/
def Bank.admits (b : Bank) (src : StationId) : Bool :=
  b.devpol.admission == .any || b.listsManager fun id => id == src

end Sys2Proof.Machine
end

