-- ==== Sys2Proof/Machine/Ops.lean ====
section
/-! DEFINITION. The operations that several blocks share: counting, offers, the service queues, notices, cell release,
the pacer's evaluation, queue heads, adoption, capture slots, and the FULL reset. -/

namespace Sys2Proof.Machine

/-! ## Counting and offers -/

/-- The named counter adds `n` (R169). -/
def count (id : CounterId) (n : Nat) (s : State) : State :=
  { s with counters := s.counters.add id n }

/-- R109: the arbiter of line `p` receives an offer. While the line is not UP or the transmitter is busy it is ignored;
otherwise a decision is owed (log 10). -/
def offer (p : Line) (s : State) : State :=
  if s.isUp p && s.txFree p then s.setOffers p (s.offers.get p + 1) else s

/-! ## Service queues -/

/-- R114: the service queue of `p` takes an enqueue. -/
def State.serviceTakes (s : State) (p : Line) : Bool :=
  s.isUp p && (s.service.get p).length < 4

/-- R114: the counter of a lost service frame, by its sort. -/
def lostCounter (p : Line) (e : ServiceEntry) : CounterId :=
  match e.sort with
  | .reply => .line p .replyLost
  | .notice => .line p .noticeLost

/-- R114: a frame is appended and a decision offered, or it is lost and counted. -/
def enqueue (p : Line) (e : ServiceEntry) (s : State) : State :=
  if s.serviceTakes p then offer p (s.setService p (s.service.get p ++ [e]))
  else count (lostCounter p e) 1 s

/-! ## Notices -/

/-- Table 10-5: the notice frame of an event, built under the active bank with the sequence after its advance. -/
def noticeFrame (e : NoticeEvent) (t : Time) (station : StationId) (s : State) : List Byte :=
  buildFrame station s.active.identity kindNotice 64 0 s.noticeSeq
    (e.bytes ++ bytes32 t ++ bytes32 s.store.generation)

/-- R167, R168: a notice event of time `t` is handed to the notice unit. -/
def notify (e : NoticeEvent) (t : Time) (s : State) : State :=
  let s := { s with noticeSeq := s.noticeSeq + 1 }
  match s.active.devpol.target with
  | none => s
  | some g =>
    enqueue g.line
      { frame := noticeFrame e t g.station s, sort := .notice, builder := .noticeUnit, awaited := false } s

/-! ## Cells -/

/-- R79: the `k` cells of a frame bound for `e` are released, and the re-arming test of R80 is applied. -/
def releaseCells (e : Line) (k : Nat) (s : State) : State :=
  { s with pool := s.pool.give e k }

/-- R79: the cells of these frames bound for `e` are released, one frame after the other. -/
def releaseAll (e : Line) (ds : List Descriptor) (s : State) : State :=
  ds.foldl (fun s d => releaseCells e d.cells s) s

/-- R82: the class occupancy of class `c` on egress `e`: the cells of its QUEUED descriptors and of the RECEIVING one,
whose frame arrives on the opposite line. -/
def State.occupancy (s : State) (e : Line) (c : TrafficClass) : Nat :=
  ((s.queue e c).map (·.cells)).sum +
    (match (s.cls.get e.opposite).reservation with
      | some d => if d.cls = c then d.cells else 0
      | none => 0)

/-! ## The pacer -/

/-- R100 to R102: the pacer of line `p` records what it found of the head of class `c`, if there is one, under the
active bank. A head found held that was not held before is counted. -/
def recordHead (p : Line) (c : TrafficClass) (allowed : Bool) (s : State) : State :=
  let x := s.lane p c
  match s.queue p c with
  | [] => s.setLane p c { x with head := .none, release := none }
  | _ :: _ =>
    if allowed then
      s.setLane p c { x with head := .eligible, release := none }
    else
      let s' := s.setLane p c
        { x with head := .held, release := some (releaseTime s.timebase x.history (s.classPol p c)) }
      if x.head = .held then s' else count (.egress p c .windowHolds) 1 s'

/-- R98: an evaluation of the head of class `c` on line `p`. -/
def evaluate (p : Line) (c : TrafficClass) (s : State) : State :=
  recordHead p c (windowAllows s.timebase (s.lane p c).history (s.classPol p c)) s

/-- R99, R104: what the arbiter's own evaluation of class `c` finds. While a window release that is due at this
reading has not been taken, the blocking entry is still younger than its span (log 27). -/
def State.openAtDecision (s : State) (p : Line) (c : TrafficClass) : Bool :=
  let x := s.lane p c
  if x.release = some s.timebase then windowAllowsBefore s.timebase x.history (s.classPol p c)
  else windowAllows s.timebase x.history (s.classPol p c)

/-- R99, R104: the evaluation of the head of class `c` at a decision of the arbiter of line `p`. -/
def evaluateAtDecision (p : Line) (c : TrafficClass) (s : State) : State :=
  recordHead p c (s.openAtDecision p c) s

/-- R100: an evaluation at a new head, a window release, a flip or line up offers the arbiter a decision when it finds
the head ELIGIBLE. -/
def evaluateOffer (p : Line) (c : TrafficClass) (s : State) : State :=
  let s' := evaluate p c s
  if (s'.lane p c).head = .eligible then offer p s' else s'

/-! ## Queue heads -/

/-- R85: the descriptors at the head of class queue `c` of egress `p` whose ages have reached the limit of the active
bank leave in entry order, their cells are released and each is counted RESIDENCE. -/
def expireHeads (p : Line) (c : TrafficClass) (s : State) : State :=
  let late := overdue s.timebase (s.classPol p c).residence
  let q := s.queue p c
  count (.egress p c .residence) (q.takeWhile late).length
    (releaseAll p (q.takeWhile late) (s.setQueue p c (q.dropWhile late)))

/-- R84, R85, R100, R101: class queue `c` of egress `p` has a new head, or none. The head is checked for residence, and
the head that stays starts its record afresh and is evaluated. -/
def newHead (p : Line) (c : TrafficClass) (s : State) : State :=
  let s := expireHeads p c s
  evaluateOffer p c (s.setLane p c { s.lane p c with head := .none, release := none })

/-- R85, R87: the head of class queue `c` of egress `p` is checked for residence where it stands. -/
def checkHead (p : Line) (c : TrafficClass) (s : State) : State :=
  match s.queue p c with
  | d :: _ => if overdue s.timebase (s.classPol p c).residence d then newHead p c s else s
  | [] => s

/-! ## The table store -/

/-- R53: the copy-back begins now. -/
def startCopy (s : State) : State :=
  s.setPhase (.refilling s.timebase)

/-- R51, R52: the frame of the classifier of line `l` leaves classification. In ADOPTING the classifier becomes
adopted, and when both are, the copy-back begins. -/
def leaveClassification (l : Line) (s : State) : State :=
  match s.store.phase with
  | .adopting m =>
    let m' := m.set l true
    if m'.n && m'.s then startCopy s else s.setPhase (.adopting m')
  | .steady => s
  | .refilling _ => s

/-! ## Capture slots -/

/-- The state of slot `k`. -/
def CaptureStore.slot (c : CaptureStore) (k : Fin 4) : Slot :=
  c.slots[k]

/-- Slot `k` replaced. -/
def CaptureStore.setSlot (c : CaptureStore) (k : Fin 4) (x : Slot) : CaptureStore :=
  { c with slots := c.slots.set k.val x k.isLt }

/-- R155, R165: slot `k` becomes EMPTY and its record is discarded. -/
def CaptureStore.empty1 (c : CaptureStore) (k : Fin 4) : CaptureStore :=
  { (c.setSlot k .empty) with claims := c.claims.filter (· ≠ k) }

/-- The slot is EMPTY. -/
def Slot.isEmpty : Slot → Bool
  | .empty => true
  | .filling _ _ => false
  | .held _ _ => false

/-- The slot is HELD. -/
def Slot.isHeld : Slot → Bool
  | .empty => false
  | .filling _ _ => false
  | .held _ _ => true

/-- R162: the slot that a request is given, if any: the lowest EMPTY one, or in RING the HELD one claimed earliest. -/
def CaptureStore.choose (c : CaptureStore) (mode : CaptureMode) : Option (Fin 4) :=
  ((List.finRange 4).find? fun k => (c.slot k).isEmpty).or
    (match mode with
      | .hold => none
      | .ring => c.claims.find? fun k => (c.slot k).isHeld)

/-- R162, R164: slot `k` is claimed with this record and the bytes of the inspection window. -/
def CaptureStore.claim (c : CaptureStore) (k : Fin 4) (r : CaptureRecord) (window : List Byte) : CaptureStore :=
  { (c.setSlot k (.filling r window)) with claims := c.claims.filter (· ≠ k) ++ [k] }

/-- R164: a FILLING slot takes one further byte, up to the frame's 128th. -/
def CaptureStore.pass (c : CaptureStore) (k : Fin 4) (b : Byte) : CaptureStore :=
  match c.slot k with
  | .filling r bs => if bs.length < 128 then c.setSlot k (.filling r (bs ++ [b])) else c
  | .empty => c
  | .held _ _ => c

/-! ## The request queue -/

/-- R128: the agent takes the oldest request from the queue into its hand, or waits when the queue is empty. -/
def nextRequest (s : State) : State :=
  s.setAgent
    (match s.agent.queue with
      | [] => { state := .waiting, queue := [], hand := .none }
      | r :: rest => { state := .executing, queue := rest, hand := .taken r })

/-! ## Launches -/

/-- R18: a launch in progress is cut with ABORT; a free transmitter stays as it is. -/
def Transmitter.cut (t : Transmitter) : Transmitter :=
  match t.launch with
  | none => t
  | some _ => { launch := none, close := .aborted }

/-- R16: the transmitter of `p` starts a launch at the present reading. -/
def startLaunch (p : Line) (bytes : List Byte) (src : LaunchSource) (s : State) : State :=
  s.setTx p { s.tx.get p with launch := some { start := s.timebase, bytes := bytes, source := src } }

/-! ## Power-on and FULL reset -/

/-- The power-on state with these straps; the launches in progress are cut, and the queue of commands and the count of
free choices, which are not the screen's, stay. -/
def powerOnFrom (straps : BitVec 6) (s : State) : State :=
  { State.powerOn straps with
    tx := { n := s.tx.n.cut, s := s.tx.s.cut }, choices := s.choices, pending := s.pending }

/-- R160: a FULL reset takes effect: the power-on condition in every block, the straps as latched at the last release
of RESETn, the timebase from 0, and a launch in progress cut. -/
def fullReset (s : State) : State :=
  { powerOnFrom s.straps s with resetLow := s.resetLow }

/-! ## Commands while RESETn is low -/

/-- R20: while RESETn is low the part is held at its power-on state, and nothing acts on it. -/
def awake (f : State → State) (s : State) : State :=
  if s.resetLow then s else f s

end Sys2Proof.Machine
end

