-- ==== Sys2Proof/Machine/Cadence.lean ====
section
/-! DEFINITION. The cadence units (sections 7.4 and 7.5). -/

namespace Sys2Proof.Machine

/-- R119: the FORCED test, under the active Dmax. -/
def forcedTest (p : Line) (s : State) : State :=
  let u := s.cadence.get p
  if !u.forced && (s.portPol p).dmax.toNat ≤ u.owed.length then
    notify (.cadenceForced p u.owed.length) s.timebase
      (count (.line p .forcedEntries) 1 (s.setCadence p { u with forced := true }))
  else s

/-- R117: the timer of line `p` started now, with its first expiry Tc later; STOPPED when Tc is 0 or the line is not
UP. -/
def startTimer (p : Line) (s : State) : State :=
  let tc := (s.portPol p).tc
  s.setCadence p
    { s.cadence.get p with
      timer := if s.isUp p && tc != 0 then .running (s.timebase + tc.setWidth 32) else .stopped }

/-- R118: the expiry due at `due` is taken: the debt grows, or it is a slip, the next expiry keeps the phase, and the
arbiter is offered a decision. -/
def cadenceExpire (p : Line) (due : Time) (s : State) : State :=
  let u := s.cadence.get p
  let next := { u with timer := .running (due + (s.portPol p).tc.setWidth 32) }
  offer p
    (if u.owed.length < 8 then
      forcedTest p (s.setCadence p { next with owed := u.owed ++ [s.timebase] })
    else
      notify (.cadenceSlip p u.owed.length) s.timebase
        (count (.line p .slips) 1 (s.setCadence p next)))

/-- R123: the cadence unit of line `p` at a flip; `old` is the PORTPOL entry that was active before. -/
def cadenceFlip (p : Line) (old : PortPol) (s : State) : State :=
  forcedTest p (if (s.portPol p).tc = old.tc then s else startTimer p s)

/-- R124: the cadence unit at line down. -/
def Cadence.lineDown (u : Cadence) : Cadence :=
  { u with timer := .stopped, owed := [], forced := false }

/-- R125: the cadence unit of line `p` at a TRAFFIC reset. -/
def cadenceTraffic (p : Line) (s : State) : State :=
  startTimer p (s.setCadence p { s.cadence.get p with owed := [], forced := false })

/-- CADENCE_EXPIRY (R118): taken when the timer of the line is running and due now (log 4, log 18). -/
def execCadenceExpiry (p : Line) (s : State) : Host.Outcome State Fault Refusal :=
  .next (awake (fun s =>
    match (s.cadence.get p).timer with
    | .running due => if s.timebase = due then cadenceExpire p due s else s
    | .stopped => s) s)

end Sys2Proof.Machine
end

