-- ==== Sys2Proof/Machine/Egress.lean ====
section
/-! DEFINITION. The egress arbiter, launches and their ends, window releases, residence expiries and ageing
(Chapters 5 to 7). -/

namespace Sys2Proof.Machine

/-! ## Launch starts (Table 7-2) -/

/-- R120, R121: a cadence launch pays the oldest owed entry `t`; `rest` is the owed list without it. -/
def launchCadence (p : Line) (t : Time) (rest : List Time) (s : State) : State :=
  let u := s.cadence.get p
  let frame := buildFrame 0xFFFFFFFF#32 s.active.identity kindCadence 0 0 u.seq
    (cadencePayload t rest.length (s.portPol p).dmax)
  startLaunch p (withCheck frame) .cadence
    (s.setCadence p { u with owed := rest, forced := u.forced && !rest.isEmpty, seq := u.seq + 1 })

/-- R112, R114: the oldest service entry leaves the queue and is sent. -/
def launchService (p : Line) (e : ServiceEntry) (rest : List ServiceEntry) (s : State) : State :=
  startLaunch p (withCheck e.frame) (.service e) (s.setService p rest)

/-- R84, R95, R112: the head `d` of class queue `c` is launched; `rest` is the queue behind it. The launch start is in
the history before the next head is checked and evaluated. -/
def launchHead (p : Line) (c : TrafficClass) (d : Descriptor) (rest : List Descriptor) (s : State) : State :=
  let x := s.lane p c
  newHead p c
    (startLaunch p (passedBytes d) (.passed { d with state := .launching })
      ((s.setQueue p c rest).setLane p c { x with history := appendHistory x.history s.timebase }))

/-- R110 orders 3 and 4: the classes still to be considered, then an opportunistic cadence frame. Each non-empty class
has its head evaluated afresh (R99); a head whose due release has not been taken is found held (R104, log 27). -/
def scanHeads (p : Line) : List TrafficClass → State → State
  | [], s =>
    match (s.cadence.get p).owed with
    | t :: rest => launchCadence p t rest s
    | [] => s
  | c :: cs, s =>
    match s.queue p c with
    | [] => scanHeads p cs s
    | d :: rest =>
      let s' := evaluateAtDecision p c s
      if (s'.lane p c).head = .eligible then launchHead p c d rest s' else scanHeads p cs s'

/-- R110: the arbiter of line `p` takes the first candidate in the order of Table 7-1. A FORCED unit with nothing owed,
which no run reaches, is passed over (log 19). -/
def arbitrate (p : Line) (s : State) : State :=
  match (s.cadence.get p).forced, (s.cadence.get p).owed with
  | true, t :: rest => launchCadence p t rest s
  | _, _ =>
    match s.service.get p with
    | e :: rest => launchService p e rest s
    | [] => scanHeads p classesDown s

/-- R109, R111: a decision on one offer. When it starts a launch, the other offers find the transmitter busy. -/
def decideOffer (p : Line) (s : State) : State :=
  let s' := arbitrate p s
  s'.setOffers p (if s'.txFree p then s'.offers.get p - 1 else 0)

/-- EGRESS_DECISION (R109, R110): taken on an offer, with the line UP and the transmitter free (log 4, log 10). -/
def execEgressDecision (p : Line) (s : State) : Host.Outcome State Fault Refusal :=
  .next (awake (fun s =>
    if s.isUp p && s.txFree p && 0 < s.offers.get p then decideOffer p s else s) s)

/-! ## Launch completion (R17, R113) -/

/-- R113: the accounting of a completed launch on line `p`. -/
def account (p : Line) (x : LaunchSource) (s : State) : State :=
  match x with
  | .passed d =>
    count (.egress p d.cls .launchedOctets) d.total
      (count (.egress p d.cls .launchedFrames) 1 (releaseCells p d.cells s))
  | .service _ => count (.line p .serviceFrames) 1 s
  | .cadence => count (.line p .cadenceFrames) 1 s

/-- The launched or lost frame is the reply whose report lets a FULL reset take effect (R140, R159). -/
def LaunchSource.awaited : LaunchSource → Bool
  | .service e => e.awaited
  | .passed _ => false
  | .cadence => false

/-- R17, R159: a launch on line `p` completes. -/
def completeLaunch (p : Line) (x : Launch) (s : State) : State :=
  let s := offer p (account p x.source (s.setTx p { launch := none, close := .ended }))
  if x.source.awaited then fullReset s else s

/-- LAUNCH_COMPLETION (R17): the END of the frame being launched has been sent (log 4, log 16). -/
def execLaunchCompletion (p : Line) (s : State) : Host.Outcome State Fault Refusal :=
  .next (awake (fun s =>
    match (s.tx.get p).launch with
    | some x => completeLaunch p x s
    | none => s) s)

/-! ## Timed events of the queues and pacers -/

/-- RESIDENCE_EXPIRY (R85): taken when the head's age has reached the limit of the active bank (log 4, log 9). -/
def execResidenceExpiry (p : Line) (c : TrafficClass) (s : State) : Host.Outcome State Fault Refusal :=
  .next (awake (checkHead p c) s)

/-- WINDOW_RELEASE (R103): taken when the release of the class is due now (log 4, log 18). -/
def execWindowRelease (p : Line) (c : TrafficClass) (s : State) : Host.Outcome State Fault Refusal :=
  .next (awake (fun s =>
    if (s.lane p c).release = some s.timebase then evaluateOffer p c s else s) s)

/-- AGEING_EVENT (R96): taken when the oldest entry of the history is due to be removed now (log 4, log 9). -/
def execAgeingEvent (p : Line) (c : TrafficClass) (s : State) : Host.Outcome State Fault Refusal :=
  .next (awake (fun s =>
    let x := s.lane p c
    if ageingDue x.history = some s.timebase then s.setLane p c { x with history := x.history.drop 1 } else s) s)

/-! ## Line up and line down on the egress side -/

/-- R89: the QUEUED descriptors of class queue `c` leave in entry order, are counted FLUSH and give up their cells. The
head state and any window release go with them (R107), and so does the history (R97). -/
def flushClass (p : Line) (s : State) (c : TrafficClass) : State :=
  let q := s.queue p c
  (count (.egress p c .flush) q.length (releaseAll p q (s.setQueue p c []))).setLane p c PacerLane.empty

/-- R89, R97: the eight class queues and histories of egress `p`. -/
def flushLine (p : Line) (s : State) : State :=
  classesUp.foldl (flushClass p) s

/-- R18, R90, R113: a launch in progress on line `p` is cut at line down; a class frame counts LAUNCH_ABORT and gives up
its cells. -/
def abortLaunch (p : Line) (s : State) : State :=
  let cut := s.setTx p (s.tx.get p).cut
  match (s.tx.get p).launch with
  | none => s
  | some x =>
    match x.source with
    | .passed d => count (.egress p d.cls .launchAbort) 1 (releaseCells p d.cells cut)
    | .service _ => cut
    | .cadence => cut

/-- R115: the service queue of line `p` is emptied, each entry counted lost by its sort. -/
def emptyService (p : Line) (s : State) : State :=
  (s.service.get p).foldl (fun s e => count (lostCounter p e) 1 s) (s.setService p [])

/-- R159: line down on `p` loses the reply whose report the agent waits for. -/
def State.losesAwaited (s : State) (p : Line) : Bool :=
  (s.service.get p).any (·.awaited) ||
    (match (s.tx.get p).launch with
      | some x => x.source.awaited
      | none => false)

/-- Table 1-3: the effects of line down on the egress side of line `p`. -/
def egressDown (p : Line) (s : State) : State :=
  let s := emptyService p (flushLine p (abortLaunch p s))
  (s.setCadence p (s.cadence.get p).lineDown).setOffers p 0

/-- R5, R94, R107, R117: the line-up event: the heads are evaluated, the cadence timer starts, and the arbiter is
offered a decision. -/
def egressUp (p : Line) (s : State) : State :=
  offer p (startTimer p (classesUp.foldl (fun s c => evaluateOffer p c s) s))

end Sys2Proof.Machine
end

