-- ==== Sys2Proof/Machine/Store.lean ====
section
/-! DEFINITION. The flip of a commit and its effects in the other blocks (sections 3.3 and 3.4, Table 3-4). -/

namespace Sys2Proof.Machine

/-- R42: the classifier of line `l` has a frame in classification. -/
def State.inClassification (s : State) (l : Line) : Bool :=
  (s.cls.get l).state = .judging

/-- R48: the adoption marks made at a flip: a classifier with no frame in classification is adopted. -/
def State.flipMarks (s : State) : PerLine Bool :=
  { n := !s.inClassification .n, s := !s.inClassification .s }

/-- R39, R48: the flip in the table store. The selector changes, the generation advances, and the phase becomes
ADOPTING, or REFILLING at once when both classifiers are adopted. The staging mark stays. -/
def flipStore (s : State) : State :=
  let s' :=
    { s with
      store :=
        { s.store with
          active := s.store.active.other
          generation := nextGeneration s.store.generation
          phase := .adopting s.flipMarks } }
  if s.flipMarks.n && s.flipMarks.s then startCopy s' else s'

/-- An act placed at position `k` of a list, or at its end. -/
def placeAct (k : Nat) (a : FlipAct) (as : List FlipAct) : List FlipAct :=
  as.take k ++ a :: as.drop k

/-- Table 3-4: the acts of the blocks of both lines at a flip. -/
def flipAll : List FlipAct :=
  [Line.n, Line.s].flatMap fun p =>
    classesUp.map (.queue p) ++ classesUp.map (.head p) ++ [.cadence p, .arbiter p]

/-- An order of these acts: each is placed anywhere among those that follow it in the list, so that every order is the
order of some choices (log 11). -/
def flipOrder (choices : Nat) : List FlipAct → List FlipAct
  | [] => []
  | a :: as => placeAct (Config.flipPlace choices as.length % (as.length + 1)) a (flipOrder choices as)

/-- The act is a decision of an arbiter. -/
def FlipAct.isArbiter : FlipAct → Bool
  | .queue _ _ => false
  | .head _ _ => false
  | .cadence _ => false
  | .arbiter _ => true

/-- R109: a decision taken now on an offer made now. -/
def decideNow (p : Line) (s : State) : State :=
  if s.isUp p && s.txFree p then
    let s' := arbitrate p s
    if s'.txFree p then s' else s'.setOffers p 0
  else s

/-- R87, R105, R123, R109: one act of the flip from `s0`, where `rest` are the acts still to come. The arbiter's
decision is taken now, or is owed when nothing but decisions is still to come. -/
def flipAct (s0 : State) (rest : List FlipAct) (a : FlipAct) (s : State) : State :=
  match a with
  | .queue p c => checkHead p c s
  | .head p c => evaluateOffer p c s
  | .cadence p => cadenceFlip p (s0.portPol p) s
  | .arbiter p => if rest.all (·.isArbiter) then offer p s else decideNow p s

/-- The acts of the flip from `s0`, in the order given. -/
def flipActs (s0 : State) : List FlipAct → State → State
  | [], s => s
  | a :: as, s => flipActs s0 as (flipAct s0 as a s)

/-- R48, R49: the flip, and the acts that follow from it in the other blocks of both lines, in any order (log 11). -/
def flip (s : State) : State :=
  let s' := flipActs s (flipOrder s.choices flipAll) (flipStore s)
  { s' with choices := s'.choices + 1 }

end Sys2Proof.Machine
end

