-- ==== Sys2Proof/Machine/Agent.lean ====
section
/-! DEFINITION. The management agent around its commands: the lease, the contexts, the taking of a request, its reply,
the lease expiry and the end of a copy (Chapter 8). -/

namespace Sys2Proof.Machine

/-! ## The edit session (section 8.8) -/

/-- The context is EDITOR. -/
def Context.isEditor (c : Context) : Bool :=
  match c.role with
  | .editor _ _ => true
  | .reader => false

/-- Context `i` is in use as EDITOR. -/
def State.isEditor (s : State) (i : Fin 4) : Bool :=
  match s.contexts[i] with
  | some c => c.isEditor
  | none => false

/-- The context that is EDITOR, if any (R130). -/
def State.editor (s : State) : Option (Fin 4) :=
  (List.finRange 4).find? fun i => s.isEditor i

/-- R142: the lease renewed to its full length. -/
def Role.renew (now : Time) : Role → Role
  | .editor length _ => .editor length (.running (now + leaseSpan length))
  | .reader => .reader

/-- R142: the lease stopped, with the time remaining until its due time. -/
def Role.pause (now : Time) : Role → Role
  | .editor length (.running due) => .editor length (.paused (due - now))
  | .editor length (.paused r) => .editor length (.paused r)
  | .reader => .reader

/-- R142: the lease running again from the recorded remaining time. -/
def Role.resume (now : Time) : Role → Role
  | .editor length (.paused r) => .editor length (.running (now + r))
  | .editor length (.running due) => .editor length (.running due)
  | .reader => .reader

/-- The role of context `i` changed by `f`, when the context is in use. -/
def onRole (i : Fin 4) (f : Role → Role) (s : State) : State :=
  s.setContext i (s.contexts[i].map fun c => { c with role := f c.role })

/-! ## Contexts (section 8.3) -/

/-- R130: the context in use that holds this key. -/
def State.findContext (s : State) (src : StationId) (line : Line) : Option (Fin 4) :=
  (List.finRange 4).find? fun i =>
    match s.contexts[i] with
    | some c => c.src == src && c.line == line
    | none => false

/-- R132: the lowest-numbered FREE context. -/
def State.freeContext (s : State) : Option (Fin 4) :=
  (List.finRange 4).find? fun i => s.contexts[i].isNone

/-- R132: the READER that is least recently active. -/
def State.evictable (s : State) : Option (Fin 4) :=
  s.recency.reverse.find? fun i => !s.isEditor i

/-- R132: a READER context with the request's key and sequence, and no reply. -/
def newContext (src : StationId) (line : Line) (seq : Half) : Context :=
  { src := src, line := line, lastSeq := seq, reply := none, role := .reader }

/-- R131: context `i` becomes the most recently active. -/
def touch (i : Fin 4) (s : State) : State :=
  { s with recency := i :: s.recency.filter (· ≠ i) }

/-! ## Replies (sections 8.4 and 8.7) -/

/-- The header fields of a reply: to the request's source, from the active identity, with the request's flow and
sequence (R135, R139). -/
def replyFrame (src : StationId) (flow seq : Half) (payload : List Byte) (s : State) : List Byte :=
  buildFrame src s.active.identity kindReply 64 flow seq payload

/-- The codes of a request status (Table 11-2). -/
def requestOk : Byte := 0x00#8
def requestStale : Byte := 0x01#8
def requestMalformed : Byte := 0x02#8

/-- A reply handed to the service queue of the request's line (R114). -/
def sendReply (line : Line) (frame : List Byte) (awaited : Bool) (s : State) : State :=
  enqueue line { frame := frame, sort := .reply, builder := .agent, awaited := awaited } s

/-- R139, R140: the reply is built, stored in the context and handed to the service queue. The request is finished,
unless it ran RESET FULL: the agent then waits for the report on the reply, and a reply lost at the hand-over lets the
FULL reset take effect now (R159). -/
def answer (status : Byte) (h : InHand) (s : State) : State :=
  let frame := replyFrame h.src h.flow h.seq (replyPayload status s.store.generation h.results) s
  let s := s.setContext h.ctx (s.contexts[h.ctx].map fun c => { c with reply := some frame })
  let taken := s.serviceTakes h.line
  let s := sendReply h.line frame h.full s
  if !h.full then nextRequest s
  else if taken then s.setAgent { s.agent with hand := .awaitingReset }
  else fullReset s

/-- R134: the stored reply of context `i` is replayed, and an EDITOR's lease is renewed. -/
def replay (i : Fin 4) (line : Line) (s : State) : State :=
  let s := onRole i (Role.renew s.timebase) s
  nextRequest
    (match s.contexts[i].bind (·.reply) with
      | some frame => sendReply line frame false s
      | none => s)

/-- R135: a STALE reply with the expected sequence after `last`. -/
def answerStale (r : Request) (last : Half) (s : State) : State :=
  let payload := replyPayload requestStale s.store.generation [] ++ bytes16 (last + 1)
  let frame := replyFrame (wordAt r.frame 4) (halfAt r.frame 10) (halfAt r.frame 12) payload s
  nextRequest (sendReply r.line frame false s)

/-! ## Taking a request (R129) -/

/-- R129 steps 4 and 5: a new request of context `i` begins execution. The lease of an EDITOR is renewed and the
payload is parsed; a malformed request is answered at once (R136). -/
def beginRequest (i : Fin 4) (r : Request) (s : State) : State :=
  let s := onRole i (Role.renew s.timebase) s
  let h : InHand :=
    { ctx := i, line := r.line, src := wordAt r.frame 4, flow := halfAt r.frame 10, seq := halfAt r.frame 12,
      results := [], toRun := [], sections := [], full := false }
  match parsePayload (payloadOf r.frame) with
  | some cs => s.setAgent { s.agent with hand := .request { h with toRun := cs } }
  | none => answer requestMalformed h s

/-- R129 step 3 and R133: a request whose key context `i` holds is judged by the sequence rule. -/
def judgeRequest (i : Fin 4) (c : Context) (r : Request) (s : State) : State :=
  match judgeSequence (halfAt r.frame 12) c.lastSeq with
  | .fresh => beginRequest i r (s.setContext i (some { c with lastSeq := halfAt r.frame 12 }))
  | .duplicate => replay i r.line s
  | .stale => answerStale r c.lastSeq s

/-- R129: the request `r` in hand begins. A key that no context holds is given one (R132). There always is one to give
(log 19). -/
def takeRequest (r : Request) (s : State) : State :=
  let src := wordAt r.frame 4
  match s.findContext src r.line with
  | some i =>
    match s.contexts[i] with
    | some c => judgeRequest i c r (touch i s)
    | none => s
  | none =>
    match s.freeContext.or s.evictable with
    | some i => beginRequest i r (touch i (s.setContext i (some (newContext src r.line (halfAt r.frame 12)))))
    | none => s

/-! ## Running a command (R137) -/

/-- A status after which the next command runs (R137). -/
def Status.goesOn : Status → Bool
  | .ok => true
  | .okUnchanged => true
  | _ => false

/-- R137: a command that is not run. -/
def notRun (c : Cmd) : Result :=
  { code := c.code, status := .notRun, data := [] }

/-- R137: the head command of the request has run with this status and data. After any other status than OK and
OK_UNCHANGED the commands behind it are given NOT_RUN. -/
def InHand.finish (h : InHand) (status : Status) (data : List Byte) : InHand :=
  match h.toRun with
  | [] => h
  | c :: rest =>
    let done := h.results ++ [{ code := c.code, status := status, data := data }]
    if status.goesOn then { h with results := done, toRun := rest, sections := [] }
    else { h with results := done ++ rest.map notRun, toRun := [], sections := [] }

/-- The head command of the request in hand `h` returns this status and data. -/
def finishCommand (h : InHand) (status : Status) (data : List Byte) (s : State) : State :=
  s.setAgent { s.agent with hand := .request (h.finish status data) }

/-- A command with this code and these operands acts when it is the next command of the request in hand and the agent
is EXECUTING (R128, R137); nothing comes of it otherwise (log 4). -/
def runCommand (code : Byte) (ops : List Byte) (f : InHand → State → State) (s : State) : State :=
  match s.agent.state, s.agent.hand with
  | .executing, .request h => if h.toRun.head? = some { code := code, ops := ops } then f h s else s
  | _, _ => s

/-- The codes of the twelve commands (R145 step 1, Table 11-5). -/
def commandCodes : List Byte :=
  [codeOpen, codeClose, codeRd, codeWr, codeFill, codeCommit, codeRevert, codeStat, codeCapt, codeFree, codeQuery,
    codeReset]

/-- The operands of RESET that name a scope (R156, Table 11-5). -/
def resetScopes : List (List Byte) :=
  [[0x00#8], [0x01#8], [0x02#8]]

/-- The status of a command that is no row of the opcode table: a code that names no command (R145 step 1), or a RESET
whose operands name no scope (R156, R171). -/
def oddStatus (c : Cmd) : Option Status :=
  if c.code ∉ commandCodes then some .badCommand
  else if c.code = codeReset ∧ c.ops ∉ resetScopes then some .badValue
  else none

/-- R129, R137: what the agent does with the request in hand outside the rows of the commands: it answers it when no
command is left, and gives a command that is no row its status. -/
def goOn (h : InHand) (s : State) : State :=
  match h.toRun with
  | [] => answer requestOk h s
  | c :: _ =>
    match oddStatus c with
    | some st => finishCommand h st [] s
    | none => s

/-- REQUEST_TAKE (R129): one act of the agent on the request in hand, which left the queue at the take of R128 (log 3,
log 4, log 28). -/
def execRequestTake (s : State) : Host.Outcome State Fault Refusal :=
  .next (awake (fun s =>
    match s.agent.state, s.agent.hand with
    | .executing, .taken r => takeRequest r s
    | .executing, .request h => goOn h s
    | _, _ => s) s)

/-! ## Waiting for a copy (R54, R55, R142) -/

/-- R128, R142: the head command waits for a copy: the agent enters COMMIT_WAIT and the lease is paused. -/
def waitForCopy (h : InHand) (s : State) : State :=
  let s := onRole h.ctx (Role.pause s.timebase) s
  s.setAgent { s.agent with state := .commitWait }

/-- R54, R55, R144: the head command of the request returns at copy-back completion: CLOSE ends the session, COMMIT and
REVERT return the generation. -/
def endWait (h : InHand) (s : State) : State :=
  let s := s.setAgent { s.agent with state := .executing }
  if h.toRun.head?.map (·.code) = some codeClose then
    finishCommand h .ok [] (onRole h.ctx (fun _ => .reader) s)
  else finishCommand h .ok (bytes32 s.store.generation) (onRole h.ctx (Role.resume s.timebase) s)

/-- R53: the staging bank holds the active contents, the phase is STEADY and the mark CLEAN. -/
def finishCopy (s : State) : State :=
  { s with store := { s.store.setStaging s.store.activeBank with phase := .steady, dirty := false } }

/-- R53 to R56: a copy completes. -/
def copyDone (s : State) : State :=
  match s.agent.state, s.agent.hand with
  | .commitWait, .request h => endWait h (finishCopy s)
  | _, _ => finishCopy s

/-- COPY_BACK_COMPLETION (R53): taken in REFILLING (log 4, log 15). -/
def execCopyBackCompletion (s : State) : Host.Outcome State Fault Refusal :=
  .next (awake (fun s =>
    match s.store.phase with
    | .refilling _ => copyDone s
    | .steady => s
    | .adopting _ => s) s)

/-! ## Lease expiry (R143) -/

/-- The due time of the lease of context `i`, while it runs. -/
def State.leaseDue (s : State) (i : Fin 4) : Option Time :=
  match s.contexts[i] with
  | some { role := .editor _ (.running due), .. } => some due
  | _ => none

/-- R56, R143: the lease of context `i` expires. -/
def expireLease (i : Fin 4) (s : State) : State :=
  let s := onRole i (fun _ => .reader) s
  notify (.leaseExpired i) s.timebase (if s.store.dirty then startCopy s else s)

/-- LEASE_EXPIRY (R143): taken when the EDITOR's lease is running and due now (log 4, log 18). -/
def execLeaseExpiry (s : State) : Host.Outcome State Fault Refusal :=
  .next (awake (fun s =>
    match s.editor with
    | some i => if s.leaseDue i = some s.timebase then expireLease i s else s
    | none => s) s)

end Sys2Proof.Machine
end

