-- ==== Sys2Proof/Machine/Commands.lean ====
section
/-! DEFINITION. The management commands (Chapter 9). Each is judged in the order of R145: code, role, operand form, then
its own checks. -/

namespace Sys2Proof.Machine

/-! ## Shared checks and results -/

/-- R145 step 2: a staging command of a context that is not the EDITOR is answered NOT_EDITOR. -/
def editorOnly (f : InHand → State → State) (h : InHand) (s : State) : State :=
  if s.isEditor h.ctx then f h s else finishCommand h .notEditor [] s

/-- R145 step 4, R171: operands of another length than `n` are answered BAD_VALUE with no result data. -/
def withForm (n : Nat) (ops : List Byte) (f : InHand → State → State) (h : InHand) (s : State) : State :=
  if ops.length = n then f h s else finishCommand h .badValue [] s

/-- R138, R146: a list result: the leading whole items that fit, and OK only when all do. -/
def finishList (h : InHand) (items : List (List Byte)) (s : State) : State :=
  let kept := fitItems (resultRoom h) items
  finishCommand h (if kept.length = items.length then .ok else .truncated) kept.flatten s

/-! ## OPEN and CLOSE (R141, R144, R147) -/

/-- R141: the lease operand is 0 or 10 to 60,000. -/
def leaseOk (l : Half) : Bool :=
  l == 0 || (10 ≤ l.toNat && l.toNat ≤ 60000)

/-- R141: the lease length that an operand asks for. -/
def State.leaseAsked (s : State) (l : Half) : Half :=
  if l = 0 then s.active.devpol.defaultLease else l

/-- R141 steps 1 and 4: the context of the request is EDITOR with this lease length, and its lease runs from now. -/
def grantSession (length : Half) (h : InHand) (s : State) : State :=
  finishCommand h .ok (bytes16 length)
    (onRole h.ctx (fun _ => .editor length (.running (s.timebase + leaseSpan length))) s)

/-- R147: the holder named by HELD_BY_OTHER. -/
def State.holder (s : State) (i : Fin 4) : List Byte :=
  match s.contexts[i] with
  | some c => bytes32 c.src ++ [lineCode c.line]
  | none => []

/-- R141: an OPEN whose lease operand is `l`. -/
def openWith (l : Half) (h : InHand) (s : State) : State :=
  if !leaseOk l then finishCommand h .badValue [] s
  else
    match s.editor with
    | some i =>
      if i = h.ctx then grantSession (s.leaseAsked l) h s else finishCommand h .heldByOther (s.holder i) s
    | none =>
      if s.store.phase = .steady then grantSession (s.leaseAsked l) h s else finishCommand h .busy [] s

/-- OPEN (R141). -/
def execOpen (ops : List Byte) (s : State) : Host.Outcome State Fault Refusal :=
  .next (awake (runCommand codeOpen ops (withForm 2 ops (openWith (halfAt ops 0)))) s)

/-- R55: a revert that the agent waits for. -/
def waitedRevert (h : InHand) (s : State) : State :=
  waitForCopy h (startCopy s)

/-- R144: CLOSE from the EDITOR. -/
def closeNow (h : InHand) (s : State) : State :=
  if s.store.dirty then waitedRevert h s
  else finishCommand h .ok [] (onRole h.ctx (fun _ => .reader) s)

/-- CLOSE (R144). -/
def execClose (ops : List Byte) (s : State) : Host.Outcome State Fault Refusal :=
  .next (awake (runCommand codeClose ops (editorOnly (withForm 0 ops closeNow))) s)

/-! ## RD, WR, FILL (R148, R149, R23, R24) -/

/-- Table 11-5: the bank code of RD. -/
def bankOperand (b : Byte) : Option Bool :=
  if b = 0x00#8 then some false else if b = 0x01#8 then some true else none

/-- R148: the bank that RD reads. -/
def State.rdBank (s : State) (staging : Bool) : Bank :=
  if staging then s.store.stagingBank else s.active

/-- R148: the checks of RD in their order, and its list of entries. -/
def readTable (ops : List Byte) (h : InHand) (s : State) : State :=
  let first := (halfAt ops 2).toNat
  let n := (halfAt ops 4).toNat
  match bankOperand (byteAt ops 0) with
  | none => finishCommand h .badValue [] s
  | some staging =>
    if n = 0 ∨ 1024 < n then finishCommand h .badValue [] s
    else
      match TableId.ofCode (byteAt ops 1) with
      | none => finishCommand h .badTable [] s
      | some t =>
        if t.entries ≤ first ∨ t.entries < first + n then finishCommand h .badIndex [] s
        else if staging ∧ s.store.phase ≠ .steady then finishCommand h .busy [] s
        else finishList h ((List.range n).map fun k => (s.rdBank staging).entryBytes t (first + k)) s

/-- RD (R148). -/
def execRd (ops : List Byte) (s : State) : Host.Outcome State Fault Refusal :=
  .next (awake (runCommand codeRd ops (withForm 6 ops (readTable ops))) s)

/-- R40, R44: a staging write that passes its checks. -/
def stage (b : Bank) (s : State) : State :=
  { s with store := { s.store.setStaging b with dirty := true } }

/-- R149: the outcome of a write or fill past its table and index: the staging bank replaced, or BAD_VALUE naming the
table and the index. -/
def finishWrite (t : TableId) (index : Nat) (b : Option Bank) (h : InHand) (s : State) : State :=
  match b with
  | some b => finishCommand h .ok [] (stage b s)
  | none => finishCommand h .badValue (t.code :: halfOf index) s

/-- R23, R171: the checks of WR in their order. -/
def writeEntry (ops : List Byte) (h : InHand) (s : State) : State :=
  if !entryFormOk 3 ops then finishCommand h .badValue [] s
  else
    match TableId.ofCode (byteAt ops 0) with
    | none => finishCommand h .badTable [] s
    | some t =>
      let i := (wrIndex ops).toNat
      if t.entries ≤ i then finishCommand h .badIndex [] s
      else finishWrite t i (s.store.stagingBank.write t i (ops.drop 3)) h s

/-- WR (R23). -/
def execWr (ops : List Byte) (s : State) : Host.Outcome State Fault Refusal :=
  .next (awake (runCommand codeWr ops (editorOnly (writeEntry ops))) s)

/-- R24, R171: the checks of FILL in their order. -/
def fillTable (ops : List Byte) (h : InHand) (s : State) : State :=
  if !entryFormOk 1 ops then finishCommand h .badValue [] s
  else
    match TableId.ofCode (byteAt ops 0) with
    | none => finishCommand h .badTable [] s
    | some t => finishWrite t t.fillFirst (s.store.stagingBank.fill t (ops.drop 1)) h s

/-- FILL (R24). -/
def execFill (ops : List Byte) (s : State) : Host.Outcome State Fault Refusal :=
  .next (awake (runCommand codeFill ops (editorOnly (fillTable ops))) s)

/-! ## COMMIT and REVERT (R46 to R48, R55, R150) -/

/-- R46, R47: a COMMIT from the EDITOR. -/
def commitNow (h : InHand) (s : State) : State :=
  if !s.store.dirty then finishCommand h .okUnchanged (bytes32 s.store.generation) s
  else if s.store.stagingBank.commitOk then waitForCopy h (flip s)
  else finishCommand h .badValue (TableId.devpol.code :: halfOf 0) s

/-- COMMIT (R46). -/
def execCommit (ops : List Byte) (s : State) : Host.Outcome State Fault Refusal :=
  .next (awake (runCommand codeCommit ops (editorOnly (withForm 0 ops commitNow))) s)

/-- R55: a REVERT from the EDITOR. -/
def revertNow (h : InHand) (s : State) : State :=
  if s.store.dirty then waitedRevert h s
  else finishCommand h .okUnchanged (bytes32 s.store.generation) s

/-- REVERT (R55). -/
def execRevert (ops : List Byte) (s : State) : Host.Outcome State Fault Refusal :=
  .next (awake (runCommand codeRevert ops (editorOnly (withForm 0 ops revertNow))) s)

/-! ## STAT (R151) -/

/-- R138, R151, R170: the counters of a group, and with the clear flag the counters kept set to 0. -/
def readCounters (t : StatTarget) (clear : Bool) (h : InHand) (s : State) : State :=
  let items := (s.counters.group t).map Counter.bytes
  let kept := fitItems (resultRoom h) items
  finishList h items
    (if clear then { s with counters := s.counters.clearGroup t kept.length } else s)

/-- R151: the checks of STAT. The group and the clear flag are judged before the selector (log 25). -/
def statNow (ops : List Byte) (h : InHand) (s : State) : State :=
  if 1 < (byteAt ops 2).toNat then finishCommand h .badValue [] s
  else
    match statTarget (byteAt ops 0) (byteAt ops 1) with
    | none => finishCommand h .badValue [] s
    | some none => finishCommand h .badIndex [] s
    | some (some t) => readCounters t (byteAt ops 2 == 1#8) h s

/-- STAT (R151). -/
def execStat (ops : List Byte) (s : State) : Host.Outcome State Fault Refusal :=
  .next (awake (runCommand codeStat ops (withForm 3 ops (statNow ops))) s)

/-! ## CAPT and FREE (R154, R155) -/

/-- The capture slot that an operand names. -/
def slotOperand (b : Byte) : Option (Fin 4) :=
  if h : b.toNat < 4 then some ⟨b.toNat, h⟩ else none

/-- Table 11-8 section 7, the code of a slot's state. -/
def Slot.code : Slot → Byte
  | .empty => 0x00#8
  | .filling _ _ => 0x01#8
  | .held _ _ => 0x02#8

/-- Table 11-9: the items of CAPT. -/
def Slot.items : Slot → List (List Byte)
  | .held r bs => [[Slot.code (.held r bs)], recordBytes r bs.length, bs]
  | .empty => [[Slot.code .empty]]
  | .filling r bs => [[Slot.code (.filling r bs)]]

/-- R154: CAPT of the slot that an operand names. -/
def captNow (ops : List Byte) (h : InHand) (s : State) : State :=
  match slotOperand (byteAt ops 0) with
  | none => finishCommand h .badIndex [] s
  | some k => finishList h (s.capture.slot k).items s

/-- CAPT (R154). -/
def execCapt (ops : List Byte) (s : State) : Host.Outcome State Fault Refusal :=
  .next (awake (runCommand codeCapt ops (withForm 1 ops (captNow ops))) s)

/-- R155: FREE of the slot that an operand names. -/
def freeNow (ops : List Byte) (h : InHand) (s : State) : State :=
  match slotOperand (byteAt ops 0) with
  | none => finishCommand h .badIndex [] s
  | some k =>
    match s.capture.slot k with
    | .held _ _ => finishCommand h .ok [] (s.setCapture (s.capture.empty1 k))
    | .empty => finishCommand h .ok [] s
    | .filling _ _ => finishCommand h .busy [] s

/-- FREE (R155). -/
def execFree (ops : List Byte) (s : State) : Host.Outcome State Fault Refusal :=
  .next (awake (runCommand codeFree ops (withForm 1 ops (freeNow ops))) s)

/-! ## QUERY (R152, R153) -/

/-- Table 11-8 section 1, phase. -/
def Phase.code : Phase → Byte
  | .steady => 0x00#8
  | .adopting _ => 0x01#8
  | .refilling _ => 0x02#8

/-- Table 11-8 section 2. -/
def LineState.code : LineState → Byte
  | .down => 0x00#8
  | .aligning => 0x01#8
  | .up => 0x02#8

/-- Table 11-8 section 3, one egress line and class. -/
def State.queueStatus (s : State) (p : Line) (c : TrafficClass) : List Byte :=
  halfOf (s.queue p c).length ++ halfOf (s.occupancy p c)

/-- Table 11-8 section 4, one egress line. -/
def State.cadenceStatus (s : State) (p : Line) : List Byte :=
  [byteOf (s.debt p), flagBit (s.cadence.get p).forced 1#8]

/-- Table 11-8 section 6, one context. -/
def contextStatus : Option Context → List Byte
  | none => [0x00#8] ++ bytes32 0 ++ [0x00#8]
  | some c => [if c.isEditor then 0x02#8 else 0x01#8] ++ bytes32 c.src ++ [lineCode c.line]

/-- Section `n` + 1 of Table 11-8. -/
def State.querySection (s : State) : Nat → List Byte
  | 0 => bytes32 s.store.generation ++ [s.store.phase.code, flagBit s.store.dirty 1#8]
  | 1 => [(s.port.get .n).line.code, (s.port.get .s).line.code]
  | 2 => (classesUp.map (s.queueStatus .n)).flatten ++ (classesUp.map (s.queueStatus .s)).flatten
  | 3 => s.cadenceStatus .n ++ s.cadenceStatus .s
  | 4 => halfOf s.pool.free
  | 5 => (s.contexts.toList.map contextStatus).flatten
  | 6 => s.capture.slots.toList.map Slot.code
  | 7 => bytes16 s.noticeSeq
  | _ => bytes32 s.timebase

/-- R152, R153: one act of QUERY reads its next section, when it fits in the room that is left (R146). The last section
read, or one that does not fit, ends the command (log 14). -/
def queryNow (h : InHand) (s : State) : State :=
  let read := h.sections
  let x := s.querySection read.length
  if read.flatten.length + x.length ≤ resultRoom h then
    if read.length < 8 then s.setAgent { s.agent with hand := .request { h with sections := read ++ [x] } }
    else finishCommand h .ok (read ++ [x]).flatten s
  else finishCommand h .truncated read.flatten s

/-- QUERY (R152, R153). -/
def execQuery (ops : List Byte) (s : State) : Host.Outcome State Fault Refusal :=
  .next (awake (runCommand codeQuery ops (withForm 0 ops queryNow)) s)

/-! ## RESET (R156 to R159) -/

/-- R157: every counter 0. -/
def clearCounters (h : InHand) (s : State) : State :=
  finishCommand h .ok [] { s with counters := Counters.zero }

/-- RESET with scope COUNTERS (R157). -/
def execResetCounters (s : State) : Host.Outcome State Fault Refusal :=
  .next (awake (runCommand codeReset [0x00#8] clearCounters) s)

/-- R13: a frame in progress goes to DISCARD. -/
def Reception.discarded (r : Reception) : Reception :=
  { r with state := if r.state = .idle then .idle else .discard }

/-- R13, R59, R161: the classifier of a frame in progress takes the reset mark, and no slot number stays in its
record. -/
def Classifier.marked (c : Classifier) : Classifier :=
  { c with resetMark := c.resetMark || c.state ≠ .idle, slot := none }

/-- R13: the TRAFFIC reset at the line port and the classifier of line `l`. -/
def discardFrame (l : Line) (s : State) : State :=
  (s.setRx l (s.port.get l).rx.discarded).setCls l (s.cls.get l).marked

/-- R91, R97, R125: the TRAFFIC reset on the egress side of line `p`. -/
def clearEgress (p : Line) (s : State) : State :=
  cadenceTraffic p (flushLine p s)

/-- R158: the effects of a TRAFFIC reset. -/
def trafficReset (s : State) : State :=
  clearEgress .s (clearEgress .n ((discardFrame .s (discardFrame .n s)).setCapture CaptureStore.empty))

/-- R156, R158: RESET TRAFFIC in the request in hand. -/
def clearTraffic (h : InHand) (s : State) : State :=
  finishCommand h .ok [] (trafficReset s)

/-- RESET with scope TRAFFIC (R158). -/
def execResetTraffic (s : State) : Host.Outcome State Fault Refusal :=
  .next (awake (runCommand codeReset [0x01#8] clearTraffic) s)

/-- R159: RESET FULL returns OK, and the reset takes effect when the reply has been launched or lost. -/
def askFullReset (h : InHand) (s : State) : State :=
  finishCommand { h with full := true } .ok [] s

/-- RESET with scope FULL (R159). -/
def execResetFull (s : State) : Host.Outcome State Fault Refusal :=
  .next (awake (runCommand codeReset [0x02#8] askFullReset) s)

end Sys2Proof.Machine
end

