-- ==== Sys2Proof/Machine/Classify.lean ====
section
/-! DEFINITION. The frame classifiers and the capture store as the classifiers use it (Chapters 4 and 10). -/

namespace Sys2Proof.Machine

/-! ## Frame start and header complete -/

/-- R41, R59: at a frame start the classifier takes the active bank and the generation and enters JUDGING. -/
def classifierStart (l : Line) (s : State) : State :=
  s.setCls l
    { Classifier.empty with
      state := .judging, bank := s.store.active, generation := s.store.generation, start := s.timebase }

/-- The counter of a drop decided at header or inspection complete (Table 4-5). -/
def countDrop (l : Line) (c : Option TrafficClass) (r : DropReason) (s : State) : State :=
  match r.arrivalCounter, c with
  | some k, _ => count (.arrival l k) 1 s
  | none, some c =>
    count (.egress l.opposite c (if r = .queueLimit then .queueLimit else .noCell)) 1 s
  | none, none => s

/-- R60, R61: the classifier judges the 16 header bytes. A frame decided here is counted at once, its classifier drains
it, and it leaves classification. -/
def classifierHeader (l : Line) (f : HeaderFacts) (s : State) : State :=
  let c := s.cls.get l
  let outcome := judgeHeader (s.store.bank c.bank).identity f
  match outcome with
  | .drop r =>
    leaveClassification l
      (countDrop l none r
        (s.setCls l { c with facts := some f, outcome := outcome, state := .draining }))
  | .pending => s.setCls l { c with facts := some f, outcome := outcome }
  | .management => s.setCls l { c with facts := some f, outcome := outcome }
  | .pass _ => s.setCls l { c with facts := some f, outcome := outcome }

/-! ## Inspection complete -/

/-- The hit counters that a judgement moves (R65 to R68). -/
def countHits (hits : List HitCounter) (s : State) : State :=
  hits.foldl (fun s h => count (.hit h) 1 s) s

/-- R71, R80: a refused request is counted NO_CELL, and the pool raises its notice if the flag is ARMED. -/
def refuseCells (l : Line) (c : TrafficClass) (s : State) : State :=
  let s' := countDrop l (some c) .noCell
    (s.setCls l { s.cls.get l with outcome := .drop .noCell, state := .draining })
  if s.pool.armed then
    notify (.poolExhausted l.opposite) s.timebase { s' with pool := { s'.pool with armed := false } }
  else s'

/-- R71, R77, R81: a grant makes the RECEIVING descriptor. -/
def grantCells (l : Line) (c : TrafficClass) (total : Nat) (s : State) : State :=
  { s.setCls l
      { s.cls.get l with
        state := .carrying
        reservation := some
          { arrival := l, cls := c, total := total, cells := cellsFor total, entry := none, state := .receiving,
            data := [] } } with
    pool := s.pool.take l.opposite (cellsFor total) }

/-- R70, R71: a frame with outcome PASS with class `c` is given its cells, or becomes QUEUE_LIMIT or NO_CELL. -/
def reserve (l : Line) (c : TrafficClass) (total : Nat) (s : State) : State :=
  let e := l.opposite
  if (s.classPol e c).cellLimit.toNat < s.occupancy e c + cellsFor total then
    countDrop l (some c) .queueLimit
      (s.setCls l { s.cls.get l with outcome := .drop .queueLimit, state := .draining })
  else if grantTest s.pool s.active.devpol e (cellsFor total) then grantCells l c total s
  else refuseCells l c s

/-- R69, R162: a marked frame asks the capture store for a slot, whatever its outcome. -/
def requestCapture (l : Line) (t : Trigger) (total : Nat) (window : List Byte) (s : State) : State :=
  let c := s.cls.get l
  match s.capture.choose s.active.devpol.captureMode with
  | some k =>
    (s.setCapture (s.capture.claim k
      { arrival := l, start := c.start, generation := c.generation, trigger := t, total := total,
        outcome := c.outcome } window)).setCls l { c with slot := some k }
  | none => count (.capture .missed) 1 s

/-- R65 to R68: the outcome of steps 6 to 9 is recorded and counted. -/
def applyJudgement (l : Line) (f : HeaderFacts) (j : Judgement) (s : State) : State :=
  let s := countHits j.hits (s.setCls l { s.cls.get l with outcome := j.outcome, trigger := j.trigger })
  match j.outcome with
  | .pass c => reserve l c (20 + f.payload) s
  | .drop r => countDrop l none r (s.setCls l { s.cls.get l with state := .draining })
  | .pending => s
  | .management => s

/-- R63, R72: the judgement of a PENDING frame, its reservation, and the capture request of a marked frame. -/
def inspectPending (l : Line) (f : HeaderFacts) (window : List Byte) (s : State) : State :=
  let j := (s.store.bank (s.cls.get l).bank).judge l f window
  let s := applyJudgement l f j s
  match j.trigger with
  | some t => requestCapture l t (20 + f.payload) window s
  | none => s

/-- R62, R63, R72: inspection complete at the classifier. The frame then leaves classification. -/
def classifierInspect (l : Line) (window : List Byte) (s : State) : State :=
  let c := s.cls.get l
  leaveClassification l
    (match c.outcome, c.facts with
      | .management, _ => s.setCls l { c with state := .gathering }
      | .pending, some f => inspectPending l f window s
      | _, _ => s)

/-- R72: after inspection complete a frame that holds a reservation, and a management frame, go on in BODY. -/
def Classifier.goesOn (c : Classifier) : Bool :=
  c.state = .carrying || c.state = .gathering

/-! ## Frame end and abort -/

/-- R165: the slot a frame holds becomes EMPTY. -/
def dropSlot (l : Line) (s : State) : State :=
  match (s.cls.get l).slot with
  | some k => s.setCapture (s.capture.empty1 k)
  | none => s

/-- R165: the slot a frame holds is settled as a good frame: it becomes HELD, is counted taken and raises
CAPTURE_TAKEN. -/
def holdSlot (l : Line) (s : State) : State :=
  match (s.cls.get l).slot with
  | some k =>
    match s.capture.slot k with
    | .filling r bs =>
      notify (.captureTaken k) s.timebase
        (count (.capture .taken) 1 (s.setCapture (s.capture.setSlot k (.held r bs))))
    | .empty => s
    | .held _ _ => s
  | none => s

/-- R79: the reservation a frame holds is given back. -/
def dropReservation (l : Line) (s : State) : State :=
  match (s.cls.get l).reservation with
  | some d => releaseCells l.opposite d.cells s
  | none => s

/-- R73, R83: the descriptor of a good passed frame joins the tail of its class queue, with the bytes its cells hold. A
head of a queue that was empty is checked and evaluated. -/
def queueEntry (l : Line) (d : Descriptor) (bytes : List Byte) (s : State) : State :=
  let p := l.opposite
  let q := s.queue p d.cls
  let d' := { d with state := .queued, entry := some s.timebase, data := bytes.take d.total }
  let s' := count (.egress p d.cls .accepted) 1 (s.setQueue p d.cls (q ++ [d']))
  if q.isEmpty then newHead p d.cls s' else s'

/-- R126: a good management frame is offered to the request queue. An appended request ends the agent's WAITING, and
the agent takes the request at the head of the queue at once (R128). The request then stands in its hand until
REQUEST_TAKE judges it (log 28). -/
def offerRequest (l : Line) (frame : List Byte) (s : State) : State :=
  if s.active.admits (wordAt frame 4) then
    if s.agent.queue.length < 4 then
      let s' := count (.arrival l .mgmtAccepted) 1
        (s.setAgent { s.agent with queue := s.agent.queue ++ [{ frame := frame, line := l }] })
      if s.agent.state = .waiting then nextRequest s' else s'
    else count (.arrival l .mgmtOverflow) 1 s
  else count (.arrival l .mgmtRefused) 1 s

/-- The drop counter of a frame that fails at its end (R12). -/
def EndVerdict.counter : EndVerdict → ArrivalCounter
  | .good => .framesReceived
  | .length => .length
  | .check => .integrity

/-- R62, R73, R74: the classifier at a frame end with a clear reset mark, but for the capture slot. -/
def endUnmarked (l : Line) (v : EndVerdict) (bytes : List Byte) (s : State) : State :=
  let c := s.cls.get l
  match c.state with
  | .carrying =>
    match c.reservation, v with
    | some d, .good => queueEntry l d bytes (s.setCls l { c with reservation := none })
    | _, .good => s
    | _, _ => count (.arrival l v.counter) 1 (dropReservation l s)
  | .gathering =>
    match v with
    | .good => offerRequest l bytes s
    | .length => count (.arrival l .length) 1 s
    | .check => count (.arrival l .integrity) 1 s
  | .judging => count (.arrival l .length) 1 s
  | .draining => s
  | .idle => s

/-- R75: the classifier at a frame end with the reset mark set: a passed frame returns its cells and counts FLUSH. -/
def endMarked (l : Line) (s : State) : State :=
  match (s.cls.get l).reservation with
  | some d => count (.egress l.opposite d.cls .flush) 1 (dropReservation l s)
  | none => s

/-- The frame that classifier `l` follows is in classification no longer; in JUDGING it leaves it now (R42). -/
def leaveIfJudging (l : Line) (s : State) : State :=
  if (s.cls.get l).state = .judging then leaveClassification l s else s

/-- R73 to R75: the classifier at frame end. The capture slot is settled as a good frame when the end verdict is GOOD
and the mark is clear, and becomes EMPTY otherwise. The classifier returns to IDLE. -/
def classifierEnd (l : Line) (v : EndVerdict) (bytes : List Byte) (s : State) : State :=
  let marked := (s.cls.get l).resetMark
  let s := leaveIfJudging l s
  let s := if marked then endMarked l s else endUnmarked l v bytes s
  let s := if !marked && v = .good then holdSlot l s else dropSlot l s
  s.setCls l Classifier.empty

/-- R76: the classifier at frame abort. -/
def classifierAbort (l : Line) (s : State) : State :=
  (dropSlot l (dropReservation l (leaveIfJudging l s))).setCls l Classifier.empty

end Sys2Proof.Machine
end

