-- ==== Sys2Proof/Machine/LineIn.lean ====
section
/-! DEFINITION. The receive side of the line ports: the line state machine and the frame delimiter (Chapter 1). -/

namespace Sys2Proof.Machine

/-! ## Frame delimiter (section 1.3) -/

/-- R8: START opens a frame. -/
def frameStart (l : Line) (s : State) : State :=
  classifierStart l (s.setRx l { Reception.none with state := .header })

/-- R11: the frame in progress is cut off; its delimiter holds nothing of it. Its record is empty then (log 29). -/
def frameAbort (l : Line) (s : State) : State :=
  classifierAbort l (s.setRx l Reception.none)

/-- R9: the 16th byte of a frame in HEADER. -/
def headerComplete (l : Line) (s : State) : State :=
  let r := (s.port.get l).rx
  let f := headerFacts r.bytes
  let s := classifierHeader l f s
  let st : RxState := if (s.cls.get l).state = .draining then .discard else .inspect
  s.setRx l { r with declared := some (20 + f.payload), state := st }

/-- R10, R72: inspection complete with the bytes received so far, at most the first 64. -/
def inspectionComplete (l : Line) (s : State) : State :=
  let r := (s.port.get l).rx
  let s := classifierInspect l (r.bytes.take 64) s
  let st : RxState := if (s.cls.get l).goesOn then .body else .discard
  s.setRx l { r with state := st }

/-- R164: a further byte of the frame passes to the capture slot it holds. -/
def passToSlot (l : Line) (b : Byte) (s : State) : State :=
  match (s.cls.get l).slot with
  | some k => s.setCapture (s.capture.pass k b)
  | none => s

/-- R8, R12: one byte of the frame in progress, `bad` when an invalid symbol takes its place. The count saturates at
2047; the bytes are kept up to the longest legal frame (log 7). -/
def Reception.push (r : Reception) (b : Byte) (bad : Bool) : Reception :=
  { r with
    count := min (r.count + 1) 2047
    symbolError := r.symbolError || bad
    bytes := if r.bytes.length < 1028 then r.bytes ++ [b] else r.bytes }

/-- R8 to R10, R12, R164: a byte is received in HEADER, INSPECT, BODY or DISCARD. -/
def frameByte (l : Line) (b : Byte) (bad : Bool) (s : State) : State :=
  let r := (s.port.get l).rx.push b bad
  let s := passToSlot l b (s.setRx l r)
  if r.state = .header ∧ r.count = 16 then headerComplete l s
  else if r.state = .inspect ∧ r.count = 64 then inspectionComplete l s
  else s

/-- R12, R170: the received counters of a frame end. -/
def countReceived (l : Line) (octets : Nat) (s : State) : State :=
  count (.arrival l .octetsReceived) octets (count (.arrival l .framesReceived) 1 s)

/-- R10, R12: END closes the frame. A frame that ends in INSPECT has its inspection complete first. The window is kept
until the next frame start (R10), and so is the byte count (Table 1-5). The symbol-error mark and the declared length
keep their values as well, the model's choice (log 29): no rule clears them before the next START. -/
def frameEnd (l : Line) (s : State) : State :=
  let s := if (s.port.get l).rx.state = .inspect then inspectionComplete l s else s
  let r := (s.port.get l).rx
  let s := countReceived l r.count (s.setRx l { r with state := .idle, bytes := r.bytes.take 64 })
  classifierEnd l (endVerdict r) r.bytes s

/-- R8, R10 to R12: what the delimiter of an UP line does with a symbol. -/
def delimit (l : Line) (sym : Symbol) (s : State) : State :=
  match (s.port.get l).rx.state, sym with
  | .idle, .startSym => frameStart l s
  | .idle, _ => s
  | _, .data b => frameByte l b false s
  | _, .invalid => frameByte l 0#8 true s
  | _, .endSym => frameEnd l s
  | _, .idle => frameAbort l s
  | _, .abortSym => frameAbort l s
  | _, .startSym => frameStart l (frameAbort l s)

/-! ## Line state machine (section 1.2) -/

/-- R3, R5: the line enters UP. -/
def lineUp (l : Line) (s : State) : State :=
  egressUp l (s.setPort l
    { s.port.get l with line := .up, alignCount := 16, errorCount := 0, cleanCount := 0 })

/-- R6, Table 1-3: the frame in reception, if any, ends with a frame abort. -/
def abortReception (l : Line) (s : State) : State :=
  if (s.port.get l).rx.state = .idle then s else frameAbort l s

/-- R4, R6, R159: the line enters DOWN from UP, with the line-down effects of Table 1-3. A reply that carries a FULL
reset and is lost by it lets the reset take effect. -/
def lineDown (l : Line) (s : State) : State :=
  let awaited := s.losesAwaited l
  let s := abortReception l s
  let s := egressDown l (s.setPort l { LinePort.powerOn with rx := (s.port.get l).rx })
  if awaited then fullReset s else s

/-- R2 to R4: a symbol received in each line state. The spec does not rank the line state machine and the delimiter on
one symbol of an UP line. The model's choice (log 26): the delimiter sees the symbol after the line state machine, and
the invalid symbol that takes the line DOWN never reaches it, not even where it would complete a header or an
inspection. -/
def receive (l : Line) (sym : Symbol) (s : State) : State :=
  let p := s.port.get l
  match p.line, sym with
  | .down, .idle => s.setPort l { p with line := .aligning, alignCount := 1 }
  | .down, _ => s
  | .aligning, .idle =>
    if p.alignCount + 1 < 16 then s.setPort l { p with alignCount := p.alignCount + 1 } else lineUp l s
  | .aligning, .invalid => s.setPort l { p with line := .down, alignCount := 0 }
  | .aligning, _ => s.setPort l { p with alignCount := 0 }
  | .up, .invalid =>
    if p.errorCount + 1 < 4 then
      delimit l .invalid (s.setPort l { p with errorCount := p.errorCount + 1, cleanCount := 0 })
    else lineDown l s
  | .up, sym =>
    delimit l sym (s.setPort l
      (if p.cleanCount + 1 < 16 then { p with cleanCount := p.cleanCount + 1 }
        else { p with errorCount := 0, cleanCount := 0 }))

/-- SYMBOL_RECEIVED (R1). -/
def execSymbolReceived (l : Line) (sym : Symbol) (s : State) : Host.Outcome State Fault Refusal :=
  .next (awake (receive l sym) s)

end Sys2Proof.Machine
end

