-- ==== Sys2Proof/Machine/Pins.lean ====
section
/-! DEFINITION. The reset input and the identity straps (R7, R18, R20). -/

namespace Sys2Proof.Machine

/-- RESETN_ASSERT (R6, R7, R18, R20): RESETn is low. A launch in progress is cut, and every block is held at its
power-on state (log 5). -/
def execResetnAssert (s : State) : Host.Outcome State Fault Refusal :=
  .next { powerOnFrom s.straps s with resetLow := true }

/-- RESETN_RELEASE (R20): RESETn rises with these strap levels, which are latched. RESETn already high has no rise. -/
def execResetnRelease (straps : BitVec 6) (s : State) : Host.Outcome State Fault Refusal :=
  .next (if s.resetLow then powerOnFrom straps s else s)

end Sys2Proof.Machine
end

