-- ==== Sys2Proof/Machine/Dispatch.lean ====
section
/-! DEFINITION. One arm per command. -/

namespace Sys2Proof.Machine

def exec (i : Instr) (s : State) : Host.Outcome State Fault Refusal :=
  match i with
  | .resetnAssert => Sys2Proof.Machine.execResetnAssert s
  | .resetnRelease straps => Sys2Proof.Machine.execResetnRelease straps s
  | .symbolReceived line sym => Sys2Proof.Machine.execSymbolReceived line sym s
  | .egressDecision line => Sys2Proof.Machine.execEgressDecision line s
  | .launchCompletion line => Sys2Proof.Machine.execLaunchCompletion line s
  | .residenceExpiry line cls => Sys2Proof.Machine.execResidenceExpiry line cls s
  | .windowRelease line cls => Sys2Proof.Machine.execWindowRelease line cls s
  | .ageingEvent line cls => Sys2Proof.Machine.execAgeingEvent line cls s
  | .cadenceExpiry line => Sys2Proof.Machine.execCadenceExpiry line s
  | .requestTake => Sys2Proof.Machine.execRequestTake s
  | .openSession ops => Sys2Proof.Machine.execOpen ops s
  | .closeSession ops => Sys2Proof.Machine.execClose ops s
  | .rd ops => Sys2Proof.Machine.execRd ops s
  | .wr ops => Sys2Proof.Machine.execWr ops s
  | .fill ops => Sys2Proof.Machine.execFill ops s
  | .commit ops => Sys2Proof.Machine.execCommit ops s
  | .revert ops => Sys2Proof.Machine.execRevert ops s
  | .copyBackCompletion => Sys2Proof.Machine.execCopyBackCompletion s
  | .stat ops => Sys2Proof.Machine.execStat ops s
  | .capt ops => Sys2Proof.Machine.execCapt ops s
  | .free ops => Sys2Proof.Machine.execFree ops s
  | .query ops => Sys2Proof.Machine.execQuery ops s
  | .resetCounters => Sys2Proof.Machine.execResetCounters s
  | .resetTraffic => Sys2Proof.Machine.execResetTraffic s
  | .resetFull => Sys2Proof.Machine.execResetFull s
  | .leaseExpiry => Sys2Proof.Machine.execLeaseExpiry s

end Sys2Proof.Machine
end

