-- ==== Sys2Proof/Machine/Idle.lean ====
section
/-! DEFINITION. The internal events of the part that are due, and the count of the timebase (R19; log 1, log 2). -/

namespace Sys2Proof.Machine

/-- The row of the opcode table that runs a command of a request; REQUEST_TAKE when the command is no row. -/
def Cmd.toInstr (c : Cmd) : Instr :=
  if c.code = codeOpen then .openSession c.ops
  else if c.code = codeClose then .closeSession c.ops
  else if c.code = codeRd then .rd c.ops
  else if c.code = codeWr then .wr c.ops
  else if c.code = codeFill then .fill c.ops
  else if c.code = codeCommit then .commit c.ops
  else if c.code = codeRevert then .revert c.ops
  else if c.code = codeStat then .stat c.ops
  else if c.code = codeCapt then .capt c.ops
  else if c.code = codeFree then .free c.ops
  else if c.code = codeQuery then .query c.ops
  else if c.code = codeReset ∧ c.ops = [0x00#8] then .resetCounters
  else if c.code = codeReset ∧ c.ops = [0x01#8] then .resetTraffic
  else if c.code = codeReset ∧ c.ops = [0x02#8] then .resetFull
  else .requestTake

/-- The next act of the agent, while it is EXECUTING and not waiting for a report (R128, R129, R137). -/
def State.agentDue (s : State) : List Instr :=
  match s.agent.state, s.agent.hand with
  | .executing, .taken _ => [.requestTake]
  | .executing, .request h =>
    match h.toRun with
    | [] => [.requestTake]
    | c :: _ => [c.toInstr]
  | _, _ => []

/-- The head of class queue `c` of egress `p` is due to leave (R85). -/
def State.headOverdue (s : State) (p : Line) (c : TrafficClass) : Bool :=
  match s.queue p c with
  | d :: _ => overdue s.timebase (s.classPol p c).residence d
  | [] => false

/-- The events of one class of egress `p` that are due (R85, R96, R103). -/
def State.classDue (s : State) (p : Line) (c : TrafficClass) : List Instr :=
  (if s.headOverdue p c then [.residenceExpiry p c] else []) ++
    (if (s.lane p c).release = some s.timebase then [.windowRelease p c] else []) ++
    (if ageingDue (s.lane p c).history = some s.timebase then [.ageingEvent p c] else [])

/-- The events of egress `p` that are due (R109, R118). -/
def State.lineDue (s : State) (p : Line) : List Instr :=
  (if s.isUp p && s.txFree p && 0 < s.offers.get p then [.egressDecision p] else []) ++
    (if (s.cadence.get p).timer = .running s.timebase then [.cadenceExpiry p] else []) ++
    classesUp.flatMap (s.classDue p)

/-- The lease expiry that is due (R143). -/
def State.leasesDue (s : State) : List Instr :=
  match s.editor with
  | some i => if s.leaseDue i = some s.timebase then [.leaseExpiry] else []
  | none => []

/-- R53: the copy-back whose 50 µs are over. -/
def State.copyDue (s : State) : List Instr :=
  match s.store.phase with
  | .refilling begun => if 50 ≤ age s.timebase begun then [.copyBackCompletion] else []
  | .steady => []
  | .adopting _ => []

/-- Every internal event that is due. None is while RESETn is low (log 5). -/
def State.due (s : State) : List Instr :=
  if s.resetLow then []
  else s.agentDue ++ s.lineDue .n ++ s.lineDue .s ++ s.leasesDue ++ s.copyDue

/-- R19: the timebase adds 1 at each microsecond, and stands while RESETn is low. -/
def tick (s : State) : State :=
  if s.resetLow then s else { s with timebase := s.timebase + 1 }

/-- One of the events that are due, in any order (R19, log 2). -/
def State.nextDue (s : State) : Option Instr :=
  s.due[Config.idleChoice s.choices % s.due.length]?

end Sys2Proof.Machine
end

