-- ==== Sys2Proof/Machine/Step.lean ====
section
/-! DEFINITION. One step of the part: the command at the front of the queue, or, when none waits, an internal event
that is due, or a microsecond of the timebase. -/

namespace Sys2Proof.Machine

/-- What an empty queue leaves to do: an internal event that is due (log 2), or a tick of the timebase (log 1). -/
def idle (s : State) : Host.Outcome State Fault Refusal :=
  match s.nextDue with
  | some i => exec i { s with choices := s.choices + 1 }
  | none => .next (tick s)

/-- One step: the command at the front of the queue runs with the rest of the queue behind it. -/
def step (s : State) : Host.Outcome State Fault Refusal :=
  match s.pending with
  | c :: rest => exec c { s with pending := rest }
  | [] => idle s

/-- The command that a word spells put at the front of the queue. No word spells one (log 22). -/
def State.withFetchWord (s : State) (nbits w : Nat) : State :=
  match decodeTableWord nbits w with
  | some c => { s with pending := c :: s.pending }
  | none => s

end Sys2Proof.Machine
end

