-- ==== Sys2Proof/Safety.lean ====
section
/-! DEFINITION. What the statements speak of: when a command of a request runs, when a frame is in reception, what one
symbol leaves of it, which context a request is given, which cells are held, and the invariants of the part. -/

namespace Sys2Proof.Machine

/-! ## When a command acts -/

/-- The head command of the request in hand `h` has this code and these operands, and the agent runs it (R128, R137).
-/
def State.Running (s : State) (h : InHand) (code : Byte) (ops : List Byte) : Prop :=
  s.resetLow = false ∧ s.agent.state = .executing ∧ s.agent.hand = .request h ∧
    h.toRun.head? = some { code := code, ops := ops }

/-- The arbiter of line `p` may take an offer now (R109). -/
def State.MayDecide (s : State) (p : Line) : Prop :=
  s.resetLow = false ∧ s.isUp p = true ∧ s.txFree p = true ∧ 0 < s.offers.get p

/-- No forced cadence frame and no service frame goes before a class head (Table 7-1 orders 1 and 2); a FORCED unit with
nothing owed is passed over (log 19). -/
def State.NoEarlierCandidate (s : State) (p : Line) : Prop :=
  ((s.cadence.get p).forced = false ∨ (s.cadence.get p).owed = []) ∧ s.service.get p = []

/-- R4: the counts of an UP line after a valid symbol. -/
def LinePort.afterValid (p : LinePort) : LinePort :=
  if p.cleanCount + 1 < 16 then { p with cleanCount := p.cleanCount + 1 }
  else { p with errorCount := 0, cleanCount := 0 }

/-- R4: the counts of a line that is UP and stays UP after this symbol. -/
def LinePort.afterSymbol (p : LinePort) : Symbol → LinePort
  | .invalid => { p with errorCount := p.errorCount + 1, cleanCount := 0 }
  | _ => p.afterValid

/-- A symbol that stands for byte `b` of a frame, received on an UP line that it leaves UP (R8, R12). -/
def State.Receives (s : State) (l : Line) (sym : Symbol) (b : Byte) : Prop :=
  s.resetLow = false ∧ (s.port.get l).line = .up ∧
    (sym = .data b ∨ (sym = .invalid ∧ b = 0x00#8 ∧ (s.port.get l).errorCount < 3))

/-- The next byte is the frame's sixteenth, which completes its header (R9). -/
def Reception.CompletesAt16 (r : Reception) : Prop :=
  r.state = .header ∧ r.count = 15

/-- The next byte is the frame's 64th, which completes its inspection (R10). -/
def Reception.CompletesAt64 (r : Reception) : Prop :=
  r.state = .inspect ∧ r.count = 63

/-- R8, R12: the record of a frame with one byte more, spelled by this symbol (log 7). -/
def Reception.withByte (r : Reception) (sym : Symbol) (b : Byte) : Reception :=
  { r with
    count := min (r.count + 1) 2047
    symbolError := r.symbolError || sym == .invalid
    bytes := if r.bytes.length < 1028 then r.bytes ++ [b] else r.bytes }

/-- R12: the counters once a frame end on line `l` is counted as received. -/
def State.countedAtEnd (s : State) (l : Line) : Counters :=
  (s.counters.add (.arrival l .framesReceived) 1).add (.arrival l .octetsReceived) (s.port.get l).rx.count

/-- R51, R52: the phase once the frame of line `l` has left classification. -/
def State.phaseLeaving (s : State) (l : Line) : Phase :=
  match s.store.phase with
  | .adopting m => if m.get l.opposite then .refilling s.timebase else .adopting (m.set l true)
  | .steady => .steady
  | .refilling begun => .refilling begun

/-- R129, R132: a new request `r` is taken in context `i`, which then stands as `c`: the known context of its key with
a fresh sequence and its lease renewed; or, for a stranger, a READER in the lowest FREE context or in place of the
least recently active READER. -/
def State.GivesContext (s : State) (r : Request) (i : Fin 4) (c : Context) : Prop :=
  (∃ d, s.contexts[i] = some d ∧ d.src = wordAt r.frame 4 ∧ d.line = r.line ∧
    (∀ j < i, ∀ e, s.contexts[j] = some e → e.src ≠ d.src ∨ e.line ≠ d.line) ∧
    1 ≤ (halfAt r.frame 12 - d.lastSeq).toNat ∧ (halfAt r.frame 12 - d.lastSeq).toNat ≤ 32768 ∧
    c = { d with lastSeq := halfAt r.frame 12, role := d.role.renew s.timebase }) ∨
  ((∀ (j : Fin 4) d, s.contexts[j] = some d → d.src ≠ wordAt r.frame 4 ∨ d.line ≠ r.line) ∧
    ((s.contexts[i] = none ∧ ∀ j < i, s.contexts[j].isSome = true) ∨
      ((∀ j : Fin 4, s.contexts[j].isSome = true) ∧ s.isEditor i = false ∧
        ∃ newer older, s.recency = newer ++ i :: older ∧ ∀ j ∈ older, s.isEditor j = true)) ∧
    c = { src := wordAt r.frame 4, line := r.line, lastSeq := halfAt r.frame 12, reply := none, role := .reader })

/-- The head of class `c` on line `p` is ELIGIBLE by R98 as the state stands. -/
def State.Allows (s : State) (p : Line) (c : TrafficClass) : Bool :=
  windowAllows s.timebase (s.lane p c).history (s.classPol p c)

/-- R99, R104: the arbiter's own evaluation finds the head of class `c` on line `p` ELIGIBLE. While a window release
that is due now has not been taken, an entry whose age equals its span still counts (log 27). -/
def State.AllowsDecision (s : State) (p : Line) (c : TrafficClass) : Bool :=
  let pol := s.classPol p c
  let within := fun span : Nat => (s.lane p c).history.countP fun t => age s.timebase t ≤ span
  if (s.lane p c).release = some s.timebase then
    (pol.ks == 0 || within pol.ws.toNat < pol.ks.toNat) && (pol.kl == 0 || within pol.wl.toNat < pol.kl.toNat)
  else s.Allows p c

/-- R98, R100, R102: the lane of class `c` on line `p` stands as an evaluation of its head leaves it. -/
def State.Evaluated (s : State) (p : Line) (c : TrafficClass) : Prop :=
  (s.lane p c).head = (if s.queue p c = [] then .none else if s.Allows p c then .eligible else .held) ∧
    (s.lane p c).release = (if s.queue p c ≠ [] ∧ s.Allows p c = false
      then some (releaseTime s.timebase (s.lane p c).history (s.classPol p c)) else none)

/-- R109: the offers of line `p` with one more, when its arbiter hears it (log 10). -/
def State.offered (s : State) (p : Line) : PerLine Nat :=
  if s.isUp p && s.txFree p then s.offers.set p (s.offers.get p + 1) else s.offers

/-- R128: the agent once the request in hand is finished: it takes the oldest request of the queue into its hand, where
REQUEST_TAKE finds it (log 28), or waits. -/
def Agent.afterFinish (a : Agent) : Agent :=
  match a.queue with
  | [] => { state := .waiting, queue := [], hand := .none }
  | r :: rest => { state := .executing, queue := rest, hand := .taken r }

/-- From `s` to `t`, every counter outside `moved` reads as before. -/
def State.CountsOnly (s t : State) (moved : CounterId → Prop) : Prop :=
  ∀ id, ¬ moved id → t.counters.read id = s.counters.read id

/-- R167, R168, R114: from `s` to `t` one notice event is handed to the notice unit, with this code and detail. With
no target no frame is built. Otherwise the frame of Table 10-5 joins the service queue of the target line, which is
offered a decision, or the queue does not take it and it is counted lost. -/
def State.Notifies (s t : State) (event : List Byte) : Prop :=
  t.noticeSeq = s.noticeSeq + 1 ∧
    (∀ p, (∀ g, s.active.devpol.target = some g → g.line ≠ p) → t.service.get p = s.service.get p ∧
      t.counters.read (.line p .noticeLost) = s.counters.read (.line p .noticeLost)) ∧
    ∀ g, s.active.devpol.target = some g →
      (s.serviceTakes g.line = true →
        t.service.get g.line = s.service.get g.line ++
          [{ frame := buildFrame g.station s.active.identity 0x12#8 64 0 (s.noticeSeq + 1)
               (event ++ bytes32 s.timebase ++ bytes32 s.store.generation)
             sort := .notice, builder := .noticeUnit, awaited := false }] ∧
        t.counters.read (.line g.line .noticeLost) = s.counters.read (.line g.line .noticeLost) ∧
        (s.txFree g.line = true → s.offers.get g.line < t.offers.get g.line)) ∧
      (s.serviceTakes g.line = false →
        t.service.get g.line = s.service.get g.line ∧
        t.counters.read (.line g.line .noticeLost) = (s.counters.read (.line g.line .noticeLost)).add 1)

/-- R171, Table 11-6: the entry operand has the length that its table takes. An unknown table is held to no length, and
neither is RULES with its W byte missing or outside 1 to 16. -/
def EntrySized (table : Byte) (entry : List Byte) : Prop :=
  (table = 0x01#8 → entry.length = 8) ∧ (table = 0x02#8 → entry.length = 4) ∧
    (table = 0x03#8 → ∀ w, entry[5]? = some w → 1 ≤ w.toNat → w.toNat ≤ 16 → entry.length = 8 + 2 * w.toNat) ∧
    (table = 0x04#8 → entry.length = 1) ∧ (table = 0x05#8 → entry.length = 16) ∧
    (table = 0x06#8 → entry.length = 4) ∧ (table = 0x07#8 → entry.length = 16)

/-! ## Cells in use -/

/-- R80: from `p` to `q` cells have been released, or none: the notice flag arms when a release leaves more than 64
cells free, and never disarms. -/
def Pool.Rearms (p q : Pool) : Prop :=
  p.free ≤ q.free ∧ (p.armed = true → q.armed = true) ∧ (q.armed = true → p.armed = true ∨ 64 < q.free) ∧
    (p.free < q.free → 64 < q.free → q.armed = true)

/-- The cells of the frame being launched on a transmitter (R81). -/
def Transmitter.cells (t : Transmitter) : Nat :=
  match t.launch with
  | some { source := .passed d, .. } => d.cells
  | _ => 0

/-- The class of the frame being launched on a transmitter, when it is a passed frame (R84). -/
def Transmitter.cls (t : Transmitter) : Option TrafficClass :=
  match t.launch with
  | some { source := .passed d, .. } => some d.cls
  | _ => none

/-- The service entry being launched on a transmitter, if any (R112). -/
def Transmitter.serviceSent (t : Transmitter) : List ServiceEntry :=
  match t.launch with
  | some { source := .service e, .. } => [e]
  | _ => []

/-- The cells that a classifier's frame holds (R71). -/
def Classifier.cells (c : Classifier) : Nat :=
  match c.reservation with
  | some d => d.cells
  | none => 0

/-- The cells held by the frames of the eight class queues of egress `e`. -/
def State.queuedCells (s : State) (e : Line) : Nat :=
  (classesUp.map fun c => ((s.queue e c).map (·.cells)).sum).sum

/-- R77: the cells held by frames bound for `e`, RECEIVING, QUEUED or LAUNCHING. -/
def State.heldCells (s : State) (e : Line) : Nat :=
  (s.cls.get e.opposite).cells + s.queuedCells e + (s.tx.get e).cells

/-! ## Invariants -/

/-- The delimiter and the classifier of line `l` follow the same frame (R8 to R12, R58, R71, R72). -/
def State.Follows (s : State) (l : Line) : Prop :=
  ((s.port.get l).rx.state = .idle ↔ (s.cls.get l).state = .idle) ∧
    ((s.port.get l).line ≠ .up → (s.port.get l).rx.state = .idle) ∧
    ((s.port.get l).rx.state = .header ∨ (s.port.get l).rx.state = .inspect → (s.cls.get l).state = .judging) ∧
    ((s.cls.get l).state = .carrying ↔ (s.cls.get l).reservation.isSome = true)

/-- R48, R51: in ADOPTING, a classifier that is not adopted has a frame in classification, and one such is left. -/
def State.Adopts (s : State) : Prop :=
  ∀ m, s.store.phase = .adopting m →
    (m.n && m.s) = false ∧ ∀ l, m.get l = false → (s.cls.get l).state = .judging

/-- R77: every cell is free or held by exactly one frame. -/
def State.Conserves (s : State) : Prop :=
  s.pool.free + s.heldCells .n + s.heldCells .s = 1024 ∧ ∀ e, s.pool.used.get e = s.heldCells e

/-- The frames in the part and their cells are accounted for. -/
def State.FramesInv (s : State) : Prop :=
  (∀ l, s.Follows l) ∧ s.Adopts ∧ s.Conserves

/-- R40: staging equals active in STEADY with CLEAN staging, and staging is DIRTY through a commit or revert. -/
def State.StoreInv (s : State) : Prop :=
  (s.store.phase = .steady → s.store.dirty = false → s.store.stagingBank = s.store.activeBank) ∧
    (s.store.phase ≠ .steady → s.store.dirty = true)

/-- Table 8-2: the agent is WAITING exactly when it has nothing in hand, and then no request waits. R130, R141, R145:
at most one context is EDITOR; outside COMMIT_WAIT an EDITOR exists in STEADY only; the agent waits with a command of
a request in hand, while the store is not STEADY; and in STEADY only an EDITOR leaves staging DIRTY. -/
def State.SessionInv (s : State) : Prop :=
  (s.agent.state = .waiting ↔ s.agent.hand = .none) ∧ (s.agent.state = .waiting → s.agent.queue = []) ∧
    (∀ i j, s.isEditor i = true → s.isEditor j = true → i = j) ∧
    (s.agent.state ≠ .commitWait → ∀ i, s.isEditor i = true → s.store.phase = .steady) ∧
    (s.agent.state = .commitWait → s.store.phase ≠ .steady ∧ ∃ h, s.agent.hand = .request h ∧ h.toRun ≠ []) ∧
    (s.store.phase = .steady → s.store.dirty = true → ∃ i, s.isEditor i = true)

/-- Every entry of a bank passes the write-time checks of its table (Table 2-10). -/
def Bank.EntriesOk (b : Bank) : Prop :=
  (∀ i : Fin 32, b.station[i].okAt i.val = true) ∧ (∀ i : Fin 8, b.rules[i].ok = true) ∧
    (∀ i : Fin 16, b.classpol[i].ok = true) ∧ (∀ p, (b.portpol.get p).ok = true) ∧ b.devpol.ok = true

/-- R23, R25: every entry of both banks passes its checks. -/
def State.EntriesInv (s : State) : Prop :=
  s.store.bankA.EntriesOk ∧ s.store.bankB.EntriesOk

/-- R116, R117, R119, R120: the debt, the forced flag and the timer of a cadence unit, which runs exactly while its
line is UP and its Tc is not 0. -/
def State.CadenceInv (s : State) (p : Line) : Prop :=
  (s.cadence.get p).owed.length ≤ 8 ∧ ((s.cadence.get p).forced = true → (s.cadence.get p).owed ≠ []) ∧
    ((s.portPol p).dmax.toNat ≤ (s.cadence.get p).owed.length → (s.cadence.get p).forced = true) ∧
    ((s.cadence.get p).timer ≠ .stopped ↔ s.isUp p = true ∧ (s.portPol p).tc ≠ 0)

/-- R12, R95, R114, R126, R164: the stores that the spec bounds. -/
def State.BoundsInv (s : State) : Prop :=
  (∀ p, (s.service.get p).length ≤ 4) ∧ s.agent.queue.length ≤ 4 ∧
    (∀ p c, (s.lane p c).history.length ≤ 32) ∧
    (∀ p, (s.port.get p).rx.count ≤ 2047 ∧ (s.port.get p).rx.bytes.length ≤ 1028) ∧
    (∀ k r bs, s.capture.slot k = .filling r bs ∨ s.capture.slot k = .held r bs → bs.length ≤ 128)

/-- R161, R162: a classifier's slot number names a FILLING slot with a record of its line, a FILLING slot is held by
the classifier of its record's line, only a frame past inspection holds a slot, and the order of claims lists each
slot in use once. -/
def State.CaptureInv (s : State) : Prop :=
  (∀ l k, (s.cls.get l).slot = some k → ∃ r bs, s.capture.slot k = .filling r bs ∧ r.arrival = l) ∧
    (∀ k r bs, s.capture.slot k = .filling r bs → (s.cls.get r.arrival).slot = some k) ∧
    (∀ l k, (s.cls.get l).slot = some k → (s.cls.get l).state = .carrying ∨ (s.cls.get l).state = .draining) ∧
    s.capture.claims.Nodup ∧ ∀ k, k ∈ s.capture.claims ↔ s.capture.slot k ≠ .empty

/-- R15, R18, R115: a line that is not UP launches nothing and holds no service frame. -/
def State.QuietInv (s : State) : Prop :=
  ∀ p, s.isUp p = false → s.txFree p = true ∧ s.service.get p = []

/-- R130, R131: the recency order lists each context in use once, and no two contexts in use hold one key. -/
def State.ContextsInv (s : State) : Prop :=
  s.recency.Nodup ∧ (∀ i, i ∈ s.recency ↔ s.contexts[i].isSome = true) ∧
    ∀ (i j : Fin 4) (c d : Context), s.contexts[i] = some c → s.contexts[j] = some d → c.src = d.src →
      c.line = d.line → i = j

/-- R100, R102: a class has a head state exactly when its queue has a head, and a release exactly when it is held. -/
def State.HeadsInv (s : State) : Prop :=
  ∀ p c, ((s.lane p c).head = .none ↔ s.queue p c = []) ∧
    ((s.lane p c).release.isSome = true ↔ (s.lane p c).head = .held)

/-- R70, R81: a descriptor of a frame bound for `e` and of class `c`. -/
def Descriptor.Fits (d : Descriptor) (e : Line) (c : TrafficClass) : Prop :=
  d.arrival = e.opposite ∧ d.cls = c ∧ d.cells = cellsFor d.total

/-- R82: each class queue holds QUEUED descriptors of its own class and line, with their entry times; a classifier's
descriptor is RECEIVING. -/
def State.QueuesInv (s : State) : Prop :=
  (∀ p c, ∀ d ∈ s.queue p c, d.Fits p c ∧ d.state = .queued ∧ d.entry.isSome = true) ∧
    ∀ l d, (s.cls.get l).reservation = some d → d.Fits l.opposite d.cls ∧ d.state = .receiving

end Sys2Proof.Machine
end

