-- ==== Sys2Proof/Certificates/Slice0/Obligations.lean ====
section
/-! DEFINITION. The statements for the provers. Each says what a command does when it completes, or what every step
keeps; `{ s with … }` on the right of an equation is the frame: every field it does not name is as it was. -/

open Sys2Proof Sys2Proof.Machine

/-! ## Steps, pins, power-on -/

/-- A step takes the command at the front of the queue and runs it with the rest of the queue behind it. -/
def Obligations.StepRunsFrontCommand : Prop :=
  ∀ (c : Instr) (rest : List Instr) (s : State), s.pending = c :: rest →
    step s = exec c { s with pending := rest }

/-- An empty queue leaves an internal event that is due, or one microsecond of the timebase (the model's choice, log 1
and log 2). -/
def Obligations.IdleStepTakesDueEventOrTicks : Prop :=
  ∀ s : State, s.pending = [] →
    (s.due = [] →
      step s = .next { s with timebase := if s.resetLow then s.timebase else s.timebase + 1 }) ∧
    (s.due ≠ [] → ∃ i ∈ s.due, step s = exec i { s with choices := s.choices + 1 })

/-- The power-on state of every block. That `State.reset` has the straps at 00H is the model's choice (log 6). -/
def Obligations.PowerOnCondition : Prop :=
  State.reset = State.powerOn 0 ∧
  ∀ (straps : BitVec 6) (p : Line) (c : TrafficClass),
    let s := State.powerOn straps
    s.timebase = 0 ∧ s.straps = straps ∧ s.active.identity = 0x3C000000#32 ||| straps.setWidth 32 ∧
    s.store.bankA = Bank.generation0 straps ∧ s.store.bankB = Bank.generation0 straps ∧ s.store.active = .a ∧
    s.store.generation = 0 ∧ s.store.phase = .steady ∧ s.store.dirty = false ∧
    (s.port.get p).line = .down ∧ (s.port.get p).alignCount = 0 ∧ (s.port.get p).errorCount = 0 ∧
    (s.port.get p).cleanCount = 0 ∧ (s.port.get p).rx.state = .idle ∧ s.cls.get p = Classifier.empty ∧
    s.pool = { free := 1024, used := { n := 0, s := 0 }, armed := true } ∧ s.queue p c = [] ∧
    s.lane p c = { history := [], head := .none, release := none } ∧
    s.cadence.get p = { timer := .stopped, owed := [], forced := false, seq := 0 } ∧ s.service.get p = [] ∧
    s.txFree p = true ∧ s.agent = { state := .waiting, queue := [], hand := .none } ∧
    (∀ i : Fin 4, s.contexts[i] = none) ∧ (∀ k, s.capture.slot k = .empty) ∧ s.noticeSeq = 0 ∧
    ∀ id, (s.counters.read id).toNat = 0

/-- RESETn low holds every block at power-on and cuts the launches; its release latches the straps; and while it is low
no other command changes anything (log 5). That a RESETN_RELEASE with RESETn high changes nothing is the model's choice
(log 4). -/
def Obligations.ResetnHoldsPartAtPowerOn : Prop :=
  (∀ (straps : BitVec 6) (s : State),
     exec .resetnAssert s = .next
       { State.powerOn s.straps with
         resetLow := true, tx := { n := s.tx.n.cut, s := s.tx.s.cut }, choices := s.choices, pending := s.pending } ∧
     (s.resetLow = true → exec (.resetnRelease straps) s = .next
       { State.powerOn straps with
         tx := { n := s.tx.n.cut, s := s.tx.s.cut }, choices := s.choices, pending := s.pending }) ∧
     (s.resetLow = false → exec (.resetnRelease straps) s = .next s) ∧
     ∀ p, (s.tx.get p).cut.launch = none ∧
       (s.tx.get p).cut.close = if s.txFree p then (s.tx.get p).close else .aborted) ∧
  (∀ (c : Instr) (s : State), s.resetLow = true → c ≠ .resetnAssert → (∀ straps, c ≠ .resetnRelease straps) →
     exec c s = .next s)

/-! ## The line state machine -/

/-- R2 whole: DOWN answers IDLE alone, and is entered at power-on, at a FULL reset and from UP at the fourth error. -/
def Obligations.DownLineAlignsOnIdle : Prop :=
  ∀ (l : Line) (s : State) (straps : BitVec 6), s.resetLow = false →
    ((s.port.get l).line = .down →
      exec (.symbolReceived l .idle) s =
          .next (s.setPort l { s.port.get l with line := .aligning, alignCount := 1 }) ∧
        ∀ sym, sym ≠ .idle → exec (.symbolReceived l sym) s = .next s) ∧
    ((State.powerOn straps).port.get l).line = .down ∧ ((fullReset s).port.get l).line = .down ∧
    ((s.port.get l).line = .up → (s.port.get l).errorCount = 3 →
      ∃ t, exec (.symbolReceived l .invalid) s = .next t ∧ (t.port.get l).line = .down)

/-- R3 whole: ALIGNING counts IDLE symbols, and nothing but the line port changes. The sixteenth brings the line UP:
heads are evaluated, the cadence timer starts and a decision is owed. -/
def Obligations.AligningLineComesUpAtSixteenIdles : Prop :=
  (∀ (l : Line) (s : State), s.resetLow = false → (s.port.get l).line = .aligning →
     ((s.port.get l).alignCount + 1 < 16 → exec (.symbolReceived l .idle) s =
       .next (s.setPort l { s.port.get l with alignCount := (s.port.get l).alignCount + 1 })) ∧
     exec (.symbolReceived l .invalid) s = .next (s.setPort l { s.port.get l with line := .down, alignCount := 0 }) ∧
     ∀ sym, sym ≠ .idle → sym ≠ .invalid → exec (.symbolReceived l sym) s =
       .next (s.setPort l { s.port.get l with alignCount := 0 })) ∧
  (∀ (l : Line) (s : State), s.resetLow = false → (s.port.get l).line = .aligning → (s.port.get l).alignCount = 15 →
     ∃ t, exec (.symbolReceived l .idle) s = .next t ∧
       t = { s with
         port := s.port.set l { s.port.get l with line := .up, alignCount := 16, errorCount := 0, cleanCount := 0 }
         cadence := s.cadence.set l
           { s.cadence.get l with
             timer := if (s.portPol l).tc = 0 then .stopped
               else .running (s.timebase + (s.portPol l).tc.setWidth 32) }
         pacer := t.pacer, offers := t.offers, counters := t.counters } ∧
       (∀ c, t.Evaluated l c ∧ (t.lane l c).history = (s.lane l c).history ∧
         t.counters.read (.egress l c .windowHolds) = (s.counters.read (.egress l c .windowHolds)).add
           (if (t.lane l c).head = .held ∧ (s.lane l c).head ≠ .held then 1 else 0)) ∧
       t.pacer.get l.opposite = s.pacer.get l.opposite ∧
       s.CountsOnly t (fun id => ∃ c, id = .egress l c .windowHolds) ∧
       (s.txFree l = true → 0 < t.offers.get l))

/-- R4 whole: UP counts errors and clean runs; the fourth error takes the line DOWN with both counts 0, and the
line-down event is raised: no frame is in reception, the transmitter is free, and nothing is queued for the line. The
step is the line-down event alone wherever the symbol completes neither a header nor an inspection; elsewhere that is
the model's choice (log 26), which `FourthErrorHasLineDownEffects` states. -/
def Obligations.UpLineCountsErrorsAndCleanRuns : Prop :=
  ∀ (l : Line) (s : State), s.resetLow = false → (s.port.get l).line = .up →
    (∀ sym, sym ≠ .invalid → ∃ t, exec (.symbolReceived l sym) s = .next t ∧ (t.port.get l).line = .up ∧
      (t.port.get l).errorCount = (if (s.port.get l).cleanCount + 1 < 16 then (s.port.get l).errorCount else 0) ∧
      (t.port.get l).cleanCount =
        (if (s.port.get l).cleanCount + 1 < 16 then (s.port.get l).cleanCount + 1 else 0)) ∧
    ((s.port.get l).errorCount < 3 → ∃ t, exec (.symbolReceived l .invalid) s = .next t ∧
      (t.port.get l).line = .up ∧ (t.port.get l).errorCount = (s.port.get l).errorCount + 1 ∧
      (t.port.get l).cleanCount = 0) ∧
    ((s.port.get l).errorCount = 3 → ∃ t, exec (.symbolReceived l .invalid) s = .next t ∧
      (t.port.get l).line = .down ∧ (t.port.get l).errorCount = 0 ∧ (t.port.get l).cleanCount = 0 ∧
      (t.port.get l).rx.state = .idle ∧ t.txFree l = true ∧ t.service.get l = [] ∧ (∀ c, t.queue l c = []) ∧
      (¬ (s.port.get l).rx.CompletesAt16 → ¬ (s.port.get l).rx.CompletesAt64 → t = lineDown l s))

/-- The fourth error takes the line DOWN with the effects of Table 1-3: the frame in reception is given up, with its
cells, its slot and its part in an adoption; the queued frames are flushed, the launch is cut; and the opposite line's
side is untouched. A line down that loses the reply of a RESET FULL lets the reset take effect (R159). That the symbol
itself never reaches the delimiter is the model's choice (log 26). -/
def Obligations.FourthErrorHasLineDownEffects : Prop :=
  ∀ (l : Line) (s : State), s.resetLow = false → (s.port.get l).line = .up → (s.port.get l).errorCount = 3 →
    (s.losesAwaited l = true → exec (.symbolReceived l .invalid) s = .next
      { State.powerOn s.straps with
        tx := { n := s.tx.n.cut, s := s.tx.s.cut }, choices := s.choices, pending := s.pending }) ∧
    (s.losesAwaited l = false →
    let idle := (s.port.get l).rx.state = .idle
    let given := if idle then 0 else (s.cls.get l).cells
    ∃ t, exec (.symbolReceived l .invalid) s = .next t ∧
      (t.port.get l).line = .down ∧ (t.port.get l).rx.state = .idle ∧
      t.cls.get l = (if idle then s.cls.get l else Classifier.empty) ∧
      (∀ c, t.queue l c = [] ∧ t.lane l c = { history := [], head := .none, release := none }) ∧
      t.cadence.get l = { s.cadence.get l with timer := .stopped, owed := [], forced := false } ∧
      t.service.get l = [] ∧ t.tx.get l = (s.tx.get l).cut ∧
      t.pool.free = s.pool.free + given + s.queuedCells l + (s.tx.get l).cells ∧
      t.pool.used = (s.pool.used.set l.opposite (s.pool.used.get l.opposite - given)).set l
        (s.pool.used.get l - (s.queuedCells l + (s.tx.get l).cells)) ∧
      s.pool.Rearms t.pool ∧
      (∀ k, ¬ idle → (s.cls.get l).slot = some k → t.capture.slot k = .empty) ∧
      (∀ k, idle ∨ (s.cls.get l).slot ≠ some k → t.capture.slot k = s.capture.slot k) ∧
      t.capture.claims = s.capture.claims.filter (fun k => idle ∨ (s.cls.get l).slot ≠ some k) ∧
      t.store.phase = (if idle ∨ (s.cls.get l).state ≠ .judging then s.store.phase else s.phaseLeaving l) ∧
      (∀ c, t.counters.read (.egress l c .flush) =
        (s.counters.read (.egress l c .flush)).add (s.queue l c).length) ∧
      (∀ c, t.counters.read (.egress l c .launchAbort) =
        (s.counters.read (.egress l c .launchAbort)).add (if (s.tx.get l).cls = some c then 1 else 0)) ∧
      t.counters.read (.line l .replyLost) =
        (s.counters.read (.line l .replyLost)).add ((s.service.get l).countP (·.sort = .reply)) ∧
      t.counters.read (.line l .noticeLost) =
        (s.counters.read (.line l .noticeLost)).add ((s.service.get l).countP (·.sort = .notice)) ∧
      (∀ id, (∀ c, id ≠ .egress l c .flush ∧ id ≠ .egress l c .launchAbort) → id ≠ .line l .replyLost →
        id ≠ .line l .noticeLost → t.counters.read id = s.counters.read id) ∧
      t.port.get l.opposite = s.port.get l.opposite ∧ t.cls.get l.opposite = s.cls.get l.opposite ∧
      t.queues.get l.opposite = s.queues.get l.opposite ∧ t.pacer.get l.opposite = s.pacer.get l.opposite ∧
      t.cadence.get l.opposite = s.cadence.get l.opposite ∧ t.service.get l.opposite = s.service.get l.opposite ∧
      t.tx.get l.opposite = s.tx.get l.opposite ∧ t.offers.get l.opposite = s.offers.get l.opposite ∧
      t = { s with
        port := t.port, cls := t.cls, store := { s.store with phase := t.store.phase }, pool := t.pool
        queues := t.queues, pacer := t.pacer, cadence := t.cadence, service := t.service, tx := t.tx
        offers := t.offers, capture := t.capture, counters := t.counters })

/-! ## Frames in reception -/

/-- START on an UP line with no frame in progress opens a frame under the active bank, and every other valid symbol
outside a frame is ignored. START inside a frame cuts that frame off as ABORT does, and then opens a frame (R11). -/
def Obligations.StartOpensFrameUnderActiveBank : Prop :=
  ∀ (l : Line) (s : State), s.resetLow = false → (s.port.get l).line = .up →
    let opened : Reception := { state := .header, count := 0, symbolError := false, declared := none, bytes := [] }
    let judged : Classifier :=
      { state := .judging, bank := s.store.active, generation := s.store.generation, start := s.timebase,
        facts := none, outcome := .pending, trigger := none, reservation := none, slot := none, resetMark := false }
    ((s.port.get l).rx.state = .idle →
      exec (.symbolReceived l .startSym) s = .next
        { s with
          port := s.port.set l { (s.port.get l).afterValid with rx := opened }, cls := s.cls.set l judged } ∧
      ∀ sym, sym ≠ .startSym → sym ≠ .invalid →
        exec (.symbolReceived l sym) s = .next (s.setPort l (s.port.get l).afterValid)) ∧
    ((s.port.get l).rx.state ≠ .idle → ∃ t, exec (.symbolReceived l .abortSym) s = .next t ∧
      exec (.symbolReceived l .startSym) s = .next
        { t with port := t.port.set l { t.port.get l with rx := opened }, cls := t.cls.set l judged })

/-- A byte of a frame that completes neither its header nor its inspection is counted and kept, and passed to the slot
the frame holds. An invalid symbol counts as a byte 00H and sets the symbol-error mark. That bytes are kept while fewer
than 1028 are is the model's reading (log 7). R12: the end verdict in its order; R14: the check word. -/
def Obligations.FrameBytesAreCounted : Prop :=
  (∀ (l : Line) (sym : Symbol) (b : Byte) (s : State), s.Receives l sym b → (s.port.get l).rx.state ≠ .idle →
     ¬ (s.port.get l).rx.CompletesAt16 → ¬ (s.port.get l).rx.CompletesAt64 →
     ∃ t, exec (.symbolReceived l sym) s = .next t ∧
       t.port.get l = { (s.port.get l).afterSymbol sym with rx := (s.port.get l).rx.withByte sym b } ∧
       t.port.get l.opposite = s.port.get l.opposite ∧ t = { s with port := t.port, capture := t.capture } ∧
       t.capture.claims = s.capture.claims ∧
       (∀ k, (s.cls.get l).slot ≠ some k → t.capture.slot k = s.capture.slot k) ∧
       ∀ k, (s.cls.get l).slot = some k → t.capture.slot k =
         (match s.capture.slot k with
           | .filling r bs => .filling r (if bs.length < 128 then bs ++ [b] else bs)
           | other => other)) ∧
  (∀ r : Reception,
     (r.declared ≠ some r.count ∨ 1028 < r.count → endVerdict r = .length) ∧
     (r.declared = some r.count → r.count ≤ 1028 →
       let good := r.symbolError = false ∧ checkWord (r.bytes.take (r.count - 4)) = wordAt r.bytes (r.count - 4)
       (good → endVerdict r = .good) ∧ (¬ good → endVerdict r = .check))) ∧
  (∀ bs : List Byte, checkWord bs =
     ~~~ ((bs.flatMap fun b => [7, 6, 5, 4, 3, 2, 1, 0].map b.getLsbD).foldl
       (fun (r : Word) bit => if r.msb = bit then r <<< 1 else (r <<< 1) ^^^ 0x1EDC6F41#32) 0xFFFFFFFF#32))

/-- Table 11-1, R31: where the header's fields stand, most significant byte first. R60: the five header steps in their
order; and the sixteenth byte completes the header: a frame decided here is counted and drained, any other goes on to
INSPECT. Either keeps the bank, the generation and the time of its frame start (R41). A frame that ends before its
header is complete is counted LENGTH. -/
def Obligations.HeaderCompleteDecidesFrame : Prop :=
  (∀ (bs : List Byte) (i : Nat), byteAt bs i = bs.getD i 0x00#8 ∧ halfAt bs i = byteAt bs i ++ byteAt bs (i + 1) ∧
     wordAt bs i = byteAt bs i ++ byteAt bs (i + 1) ++ byteAt bs (i + 2) ++ byteAt bs (i + 3)) ∧
  (∀ bs : List Byte, let f := headerFacts bs
     f.dest = wordAt bs 0 ∧ f.src = wordAt bs 4 ∧ f.kind = byteAt bs 8 ∧ f.hop = byteAt bs 9 ∧
       f.label.val = (halfAt bs 10).toNat % 1024 ∧ f.payload = (halfAt bs 14).toNat) ∧
  (∀ (identity : StationId) (f : HeaderFacts),
     (1008 < f.payload → judgeHeader identity f = .drop .length) ∧
     (f.payload ≤ 1008 →
       (f.dest = identity → f.kind = 0x10#8 → judgeHeader identity f = .management) ∧
       (f.dest = identity → f.kind ≠ 0x10#8 → judgeHeader identity f = .drop .screenAddressed) ∧
       (f.dest ≠ identity → f.kind = 0x02#8 → judgeHeader identity f = .drop .terminated) ∧
       (f.dest ≠ identity → f.kind ≠ 0x02#8 → f.hop = 0 → judgeHeader identity f = .drop .hop) ∧
       (f.dest ≠ identity → f.kind ≠ 0x02#8 → f.hop ≠ 0 → judgeHeader identity f = .pending))) ∧
  (∀ (l : Line) (sym : Symbol) (b : Byte) (s : State), s.Receives l sym b → (s.port.get l).rx.CompletesAt16 →
     (s.port.get l).rx.bytes.length = 15 → (s.cls.get l).state = .judging → (s.cls.get l).slot = none →
     let bytes := (s.port.get l).rx.bytes ++ [b]
     let f := headerFacts bytes
     let o := judgeHeader (s.store.bank (s.cls.get l).bank).identity f
     ∃ t, exec (.symbolReceived l sym) s = .next t ∧
       (t.port.get l).rx.count = 16 ∧ (t.port.get l).rx.bytes = bytes ∧
       (t.port.get l).rx.symbolError = ((s.port.get l).rx.symbolError || sym == .invalid) ∧
       (t.port.get l).rx.declared = some (20 + (halfAt bytes 14).toNat) ∧
       (∀ r k, o = .drop r → r.arrivalCounter = some k →
         t.cls.get l = { s.cls.get l with facts := some f, outcome := o, state := .draining } ∧
         (t.port.get l).rx.state = .discard ∧ t.store.phase = s.phaseLeaving l ∧
         t.counters = s.counters.add (.arrival l k) 1) ∧
       (o = .pending ∨ o = .management →
         t.cls.get l = { s.cls.get l with facts := some f, outcome := o } ∧ (t.port.get l).rx.state = .inspect ∧
         t.counters = s.counters ∧ t.store = s.store) ∧
       t.port.get l.opposite = s.port.get l.opposite ∧ t.cls.get l.opposite = s.cls.get l.opposite ∧
       t = { s with
         port := t.port, cls := t.cls, store := { s.store with phase := t.store.phase }, counters := t.counters }) ∧
  (∀ (l : Line) (s : State), s.resetLow = false → (s.port.get l).line = .up → (s.port.get l).rx.state = .header →
     (s.port.get l).rx.declared = none → (s.cls.get l).state = .judging → (s.cls.get l).slot = none →
     (s.cls.get l).resetMark = false →
     ∃ t, exec (.symbolReceived l .endSym) s = .next t ∧
       t.cls.get l = Classifier.empty ∧ (t.port.get l).rx.state = .idle ∧ t.store.phase = s.phaseLeaving l ∧
       t.counters = (s.countedAtEnd l).add (.arrival l .length) 1 ∧
       t.port.get l.opposite = s.port.get l.opposite ∧ t.cls.get l.opposite = s.cls.get l.opposite ∧
       t = { s with
         port := t.port, cls := t.cls, store := { s.store with phase := t.store.phase }, counters := t.counters })

/-- R64: what it takes for a rule to be tried, and to match. R65, R69: the first matching rule that drops or passes
decides; every match up to it is counted, and the first CAPTURE_CONTINUE match before it is the trigger. -/
def Obligations.FirstDecisiveRuleDecides : Prop :=
  (∀ (r : RuleEntry) (arrival : Line), r.triedOn arrival = true ↔
     r.enabled = true ∧
       (r.arrival = .both ∨ (r.arrival = .n ∧ arrival = .n) ∨ (r.arrival = .s ∧ arrival = .s))) ∧
  (∀ (r : RuleEntry) (total : Nat) (window : List Byte),
     r.matchesFrame total window = true ↔
       r.minLength.toNat ≤ total ∧ r.anchor.toNat + r.width.toNat ≤ window.length ∧
       ∀ i < r.width.toNat,
         window.getD (r.anchor.toNat + i) 0 &&& r.mask.getD i 0 = r.value.getD i 0) ∧
  (∀ (b : Bank) (arrival : Line) (f : HeaderFacts) (window : List Byte) (i : Fin 8),
     let hit := fun j : Fin 8 => b.rules[j].triedOn arrival && b.rules[j].matchesFrame (20 + f.payload) window
     hit i = true → b.rules[i].action ≠ .captureContinue →
     (∀ j < i, hit j = true → b.rules[j].action = .captureContinue) →
     b.judge arrival f window =
       { outcome := if b.rules[i].action = .drop then .drop .ruleDrop else .pass b.rules[i].cls
         trigger := ((List.finRange 8).find? fun j => j < i && hit j).map .rule
         hits := ((List.finRange 8).filter fun j => j ≤ i && hit j).map .rule })

/-- R66 to R69: with no decisive rule, the lowest agreeing valid station entry decides; else the group map decides a
group destination, and the unmatched verdict of the egress line an individual one; with the hits, and the trigger,
which is the first rule that marked the frame or else the station entry that captures. R67: each bit of the two
probes. -/
def Obligations.StationThenGroupOrUnmatchedDecides : Prop :=
  (∀ (b : Bank) (arrival : Line) (f : HeaderFacts) (window : List Byte),
     let hit := fun j : Fin 8 => b.rules[j].triedOn arrival && b.rules[j].matchesFrame (20 + f.payload) window
     (∀ j, hit j = true → b.rules[j].action = .captureContinue) →
     let marks := ((List.finRange 8).filter hit).map HitCounter.rule
     let trigger := ((List.finRange 8).find? hit).map Trigger.rule
     let agrees := fun i : Fin 31 =>
       b.station[i.succ].valid = true ∧
         ((b.station[i.succ].matchField ≠ .src ∧ f.dest = b.station[i.succ].id) ∨
           (b.station[i.succ].matchField ≠ .dest ∧ f.src = b.station[i.succ].id))
     let flow := b.flowmap[f.label]
     (∀ i, agrees i → (∀ j < i, ¬ agrees j) →
       b.judge arrival f window =
         { outcome :=
             if b.station[i.succ].verdict = .drop then .drop .stationDrop
             else .pass (match b.station[i.succ].cls with
               | .cls c => c
               | .flow => flow)
           trigger := trigger.or (if b.station[i.succ].capture then some (.station i.succ) else none)
           hits := marks ++ [.station i] }) ∧
     ((∀ i, ¬ agrees i) →
       (f.dest.msb = true → b.judge arrival f window =
         if b.groupPosition (probeA f.dest b.devpol.rA) ∧ b.groupPosition (probeB f.dest b.devpol.rB)
         then { outcome := .pass flow, trigger := trigger, hits := marks ++ [.groupPass] }
         else { outcome := .drop .groupMiss, trigger := trigger, hits := marks ++ [.groupMiss] }) ∧
       (f.dest.msb = false → b.judge arrival f window =
         if (b.portpol.get arrival.opposite).unmatched = .pass
         then { outcome := .pass flow, trigger := trigger, hits := marks ++ [.unmatchedPass] }
         else { outcome := .drop .unmatchedDrop, trigger := trigger, hits := marks }))) ∧
  (∀ (d : StationId) (r : Byte) (j : Nat), j < 11 →
     (probeA d r).getLsbD j = d.getLsbD ((j + r.toNat) % 11) ∧
     (probeB d r).getLsbD j = (d.getLsbD ((j + r.toNat) % 11) ^^ d.getLsbD ((j + r.toNat) % 11 + 16)))

/-- A marked frame claims the lowest EMPTY slot, or in RING the HELD slot claimed first, or is counted missed; and a
good end makes the FILLING slot of a drained frame HELD, counts it and raises CAPTURE_TAKEN, whose
frame is taken or lost (R168, R114). -/
def Obligations.MarkedFrameIsCaptured : Prop :=
  (∀ (l : Line) (tr : Trigger) (total : Nat) (window : List Byte) (s : State),
     let t := requestCapture l tr total window s
     let held := fun k => (s.capture.slot k).isHeld
     (∀ k, s.capture.slot k = .empty → (∀ j < k, s.capture.slot j ≠ .empty) → (t.cls.get l).slot = some k) ∧
     ((∀ k, s.capture.slot k ≠ .empty) → s.active.devpol.captureMode = .ring →
       ∀ k, s.capture.claims.find? held = some k → (t.cls.get l).slot = some k) ∧
     ((∀ k, s.capture.slot k ≠ .empty) →
       s.active.devpol.captureMode = .hold ∨ s.capture.claims.find? held = none →
       t = { s with counters := s.counters.add (.capture .missed) 1 }) ∧
     ∀ k, (s.cls.get l).slot = none → (t.cls.get l).slot = some k →
       t.capture.slot k = .filling
         { arrival := l, start := (s.cls.get l).start, generation := (s.cls.get l).generation, trigger := tr,
           total := total, outcome := (s.cls.get l).outcome } window ∧
       t.capture.claims.getLast? = some k ∧ (∀ j, j ≠ k → t.capture.slot j = s.capture.slot j) ∧
       t = { s with capture := t.capture, cls := s.cls.set l { s.cls.get l with slot := some k } }) ∧
  (∀ (l : Line) (k : Fin 4) (r : CaptureRecord) (bs : List Byte) (s : State), s.resetLow = false →
     (s.port.get l).line = .up → (s.port.get l).rx.state = .discard → (s.cls.get l).state = .draining →
     (s.cls.get l).resetMark = false → (s.cls.get l).slot = some k → s.capture.slot k = .filling r bs →
     endVerdict (s.port.get l).rx = .good →
     ∃ t, exec (.symbolReceived l .endSym) s = .next t ∧ t.capture.slot k = .held r bs ∧
       (∀ j, j ≠ k → t.capture.slot j = s.capture.slot j) ∧ t.capture.claims = s.capture.claims ∧
       t.counters.read (.capture .taken) = (s.counters.read (.capture .taken)).add 1 ∧
       s.CountsOnly t (fun id =>
         id = .arrival l .framesReceived ∨ id = .arrival l .octetsReceived ∨ id = .capture .taken ∨
           ∃ p, id = .line p .noticeLost) ∧
       s.Notifies t [0x01#8, byteOf k.val, 0x00#8, 0x00#8] ∧ t.cls.get l = Classifier.empty ∧
       t.port.get l.opposite = s.port.get l.opposite ∧ t.cls.get l.opposite = s.cls.get l.opposite ∧
       t = { s with
         port := t.port, cls := t.cls, capture := t.capture, noticeSeq := t.noticeSeq, service := t.service
         offers := t.offers, counters := t.counters })

/-- A good passed frame joins the tail of its class queue with the frame-end time and keeps its cells, and the
inspection window and the byte count stay (R10, Table 1-5); one that becomes the head is evaluated, its hold counted
(R101), and an ELIGIBLE head offers a decision (R83, R100; its count is the model's, log 10); the FILLING slot it holds
becomes HELD, is counted taken and raises CAPTURE_TAKEN (R165), whose frame is taken or lost (R168, R114). -/
def Obligations.GoodFrameEntersQueue : Prop :=
  ∀ (l : Line) (d : Descriptor) (s : State), s.resetLow = false → (s.port.get l).line = .up →
    (s.port.get l).rx.state = .body → (s.cls.get l).state = .carrying → (s.cls.get l).reservation = some d →
    (s.cls.get l).resetMark = false → endVerdict (s.port.get l).rx = .good →
    s.queue l.opposite d.cls ≠ [] ∨ 0 < (s.classPol l.opposite d.cls).residence.toNat →
    ∃ t, exec (.symbolReceived l .endSym) s = .next t ∧
      t.queue l.opposite d.cls = s.queue l.opposite d.cls ++
        [{ d with state := .queued, entry := some s.timebase, data := (s.port.get l).rx.bytes.take d.total }] ∧
      t.cls.get l = Classifier.empty ∧ (t.port.get l).rx.state = .idle ∧
      (t.port.get l).rx.count = (s.port.get l).rx.count ∧
      (t.port.get l).rx.bytes = (s.port.get l).rx.bytes.take 64 ∧
      t.counters.read (.arrival l .framesReceived) = (s.counters.read (.arrival l .framesReceived)).add 1 ∧
      t.counters.read (.arrival l .octetsReceived) =
        (s.counters.read (.arrival l .octetsReceived)).add (s.port.get l).rx.count ∧
      t.counters.read (.egress l.opposite d.cls .accepted) =
        (s.counters.read (.egress l.opposite d.cls .accepted)).add 1 ∧
      (t.lane l.opposite d.cls).history = (s.lane l.opposite d.cls).history ∧
      (let heads := s.queue l.opposite d.cls = []
       let head := (t.lane l.opposite d.cls).head
       (heads → t.Evaluated l.opposite d.cls) ∧ (¬ heads → t.pacer = s.pacer) ∧
       t.counters.read (.egress l.opposite d.cls .windowHolds) =
         (s.counters.read (.egress l.opposite d.cls .windowHolds)).add (if heads ∧ head = .held then 1 else 0) ∧
       (heads → head = .eligible → s.isUp l.opposite = true → s.txFree l.opposite = true →
         s.offers.get l.opposite < t.offers.get l.opposite) ∧
       ((s.cls.get l).slot = none →
         t.offers = if heads ∧ head = .eligible then s.offered l.opposite else s.offers)) ∧
      (∀ p c, (p, c) ≠ (l.opposite, d.cls) → t.queue p c = s.queue p c ∧ t.lane p c = s.lane p c) ∧
      s.CountsOnly t (fun id =>
        id = .arrival l .framesReceived ∨ id = .arrival l .octetsReceived ∨
          id = .egress l.opposite d.cls .accepted ∨ id = .egress l.opposite d.cls .windowHolds ∨
          id = .capture .taken ∨ ((s.cls.get l).slot ≠ none ∧ ∃ p, id = .line p .noticeLost)) ∧
      ((s.cls.get l).slot = none →
        t.capture = s.capture ∧ t.noticeSeq = s.noticeSeq ∧ t.service = s.service ∧
        t.counters.read (.capture .taken) = s.counters.read (.capture .taken)) ∧
      (∀ k r bs, (s.cls.get l).slot = some k → s.capture.slot k = .filling r bs →
        t.capture.slot k = .held r bs ∧ (∀ j, j ≠ k → t.capture.slot j = s.capture.slot j) ∧
        t.capture.claims = s.capture.claims ∧ s.Notifies t [0x01#8, byteOf k.val, 0x00#8, 0x00#8] ∧
        t.counters.read (.capture .taken) = (s.counters.read (.capture .taken)).add 1) ∧
      t.port.get l.opposite = s.port.get l.opposite ∧ t.cls.get l.opposite = s.cls.get l.opposite ∧
      t = { s with
        port := t.port, cls := t.cls, queues := t.queues, pacer := t.pacer, offers := t.offers
        capture := t.capture, noticeSeq := t.noticeSeq, service := t.service, counters := t.counters }

/-- A passed frame that fails at its end, or that a TRAFFIC reset marked, returns its cells and enters no queue. IDLE or
ABORT inside a frame cuts it off: its cells and its slot are given up and nothing is counted, and the delimiter's record
is empty (R11, the model's choice, log 29). The other claims stay in their order (R162). The end of a frame that was
dropped earlier, or of any marked frame that holds no cells, is counted as received and under no drop reason. -/
def Obligations.FailedOrCutFrameReturnsCells : Prop :=
  (∀ (l : Line) (d : Descriptor) (s : State), s.resetLow = false → (s.port.get l).line = .up →
     (s.port.get l).rx.state = .body ∨ (s.port.get l).rx.state = .discard →
     (s.cls.get l).state = .carrying → (s.cls.get l).reservation = some d →
     (s.cls.get l).resetMark = true ∨ endVerdict (s.port.get l).rx ≠ .good →
     ∃ t, exec (.symbolReceived l .endSym) s = .next t ∧
       t.pool.free = s.pool.free + d.cells ∧
       t.pool.used = s.pool.used.set l.opposite (s.pool.used.get l.opposite - d.cells) ∧
       t.pool.armed = (s.pool.armed || decide (64 < t.pool.free)) ∧
       t.cls.get l = Classifier.empty ∧ (t.port.get l).rx.state = .idle ∧
       t.counters = (s.countedAtEnd l).add
         (if (s.cls.get l).resetMark then .egress l.opposite d.cls .flush
           else if endVerdict (s.port.get l).rx = .length then .arrival l .length
           else .arrival l .integrity) 1 ∧
       (∀ k, (s.cls.get l).slot = some k → t.capture.slot k = .empty) ∧
       (∀ k, (s.cls.get l).slot ≠ some k → t.capture.slot k = s.capture.slot k) ∧
       t.capture.claims = s.capture.claims.filter (fun k => (s.cls.get l).slot ≠ some k) ∧
       t.port.get l.opposite = s.port.get l.opposite ∧ t.cls.get l.opposite = s.cls.get l.opposite ∧
       t = { s with port := t.port, cls := t.cls, pool := t.pool, capture := t.capture, counters := t.counters }) ∧
  (∀ (l : Line) (sym : Symbol) (s : State), s.resetLow = false → (s.port.get l).line = .up →
     (s.port.get l).rx.state ≠ .idle → sym = .idle ∨ sym = .abortSym →
     ∃ t, exec (.symbolReceived l sym) s = .next t ∧
       (t.port.get l).rx.state = .idle ∧ (t.port.get l).rx.count = 0 ∧ t.cls.get l = Classifier.empty ∧
       t.pool.free = s.pool.free + (s.cls.get l).cells ∧
       t.pool.used = s.pool.used.set l.opposite (s.pool.used.get l.opposite - (s.cls.get l).cells) ∧
       t.pool.armed =
         (s.pool.armed || ((s.cls.get l).reservation.isSome && decide (64 < t.pool.free))) ∧
       (∀ k, (s.cls.get l).slot = some k → t.capture.slot k = .empty) ∧
       (∀ k, (s.cls.get l).slot ≠ some k → t.capture.slot k = s.capture.slot k) ∧
       t.capture.claims = s.capture.claims.filter (fun k => (s.cls.get l).slot ≠ some k) ∧
       t.store.phase = (if (s.cls.get l).state = .judging then s.phaseLeaving l else s.store.phase) ∧
       t.port.get l.opposite = s.port.get l.opposite ∧ t.cls.get l.opposite = s.cls.get l.opposite ∧
       t = { s with
         port := t.port, cls := t.cls, store := { s.store with phase := t.store.phase }, pool := t.pool
         capture := t.capture }) ∧
  (∀ (l : Line) (s : State), s.resetLow = false → (s.port.get l).line = .up →
     (s.port.get l).rx.state = .body ∨ (s.port.get l).rx.state = .discard →
     (s.cls.get l).reservation = none → (s.cls.get l).resetMark = true ∨ (s.cls.get l).state = .draining →
     (s.cls.get l).resetMark = true ∨ (s.cls.get l).slot = none ∨ endVerdict (s.port.get l).rx ≠ .good →
     ∃ t, exec (.symbolReceived l .endSym) s = .next t ∧
       t.cls.get l = Classifier.empty ∧ (t.port.get l).rx.state = .idle ∧ t.counters = s.countedAtEnd l ∧
       (∀ k, (s.cls.get l).slot = some k → t.capture.slot k = .empty) ∧
       (∀ k, (s.cls.get l).slot ≠ some k → t.capture.slot k = s.capture.slot k) ∧
       t.capture.claims = s.capture.claims.filter (fun k => (s.cls.get l).slot ≠ some k) ∧
       t.store.phase = (if (s.cls.get l).state = .judging then s.phaseLeaving l else s.store.phase) ∧
       t.port.get l.opposite = s.port.get l.opposite ∧ t.cls.get l.opposite = s.cls.get l.opposite ∧
       t = { s with
         port := t.port, cls := t.cls, store := { s.store with phase := t.store.phase }, capture := t.capture
         counters := t.counters })

/-- R126: whom the active bank admits. A good management frame is appended to the request queue, or counted as refused
or overflowed; one that fails at its end is counted LENGTH or INTEGRITY and is not offered (R62). R128: a WAITING
agent becomes EXECUTING and takes the head of the queue at once; that the request then stands in its hand, for
REQUEST_TAKE to judge in a step of its own, is the model's choice (log 28). -/
def Obligations.ManagementFrameIsOffered : Prop :=
  (∀ (b : Bank) (src : StationId), b.admits src = true ↔
     b.devpol.admission = .any ∨
       ∃ i : Fin 31, b.station[i.succ].valid = true ∧ b.station[i.succ].manager = true ∧ b.station[i.succ].id = src) ∧
  (∀ (l : Line) (s : State), s.resetLow = false → (s.port.get l).line = .up → (s.port.get l).rx.state = .body →
     (s.cls.get l).state = .gathering → (s.cls.get l).slot = none → (s.cls.get l).resetMark = false →
     let frame := (s.port.get l).rx.bytes
     ∃ t, exec (.symbolReceived l .endSym) s = .next t ∧ t.cls.get l = Classifier.empty ∧
       (t.port.get l).rx.state = .idle ∧
       (endVerdict (s.port.get l).rx = .length →
         t.agent = s.agent ∧ t.counters = (s.countedAtEnd l).add (.arrival l .length) 1) ∧
       (endVerdict (s.port.get l).rx = .check →
         t.agent = s.agent ∧ t.counters = (s.countedAtEnd l).add (.arrival l .integrity) 1) ∧
       (endVerdict (s.port.get l).rx = .good →
         (s.active.admits (wordAt frame 4) = false →
           t.agent = s.agent ∧ t.counters = (s.countedAtEnd l).add (.arrival l .mgmtRefused) 1) ∧
         (s.active.admits (wordAt frame 4) = true → 4 ≤ s.agent.queue.length →
           t.agent = s.agent ∧ t.counters = (s.countedAtEnd l).add (.arrival l .mgmtOverflow) 1) ∧
         (s.active.admits (wordAt frame 4) = true → s.agent.queue.length < 4 →
           let queue := s.agent.queue ++ [{ frame := frame, line := l }]
           (s.agent.state ≠ .waiting → t.agent = { s.agent with queue := queue }) ∧
           (s.agent.state = .waiting → ∀ head rest, queue = head :: rest →
             t.agent = { state := .executing, queue := rest, hand := .taken head }) ∧
           t.counters = (s.countedAtEnd l).add (.arrival l .mgmtAccepted) 1)) ∧
       t.port.get l.opposite = s.port.get l.opposite ∧ t.cls.get l.opposite = s.cls.get l.opposite ∧
       t = { s with port := t.port, cls := t.cls, agent := t.agent, counters := t.counters })

/-- R78: the two conditions of a grant. R10: the 64th byte raises inspection complete, and so does an early END, whose
frame end follows at once. Inspection complete of a PENDING frame: what becomes of each outcome, under the active cell
limit and reserves, and the capture request of a marked frame (R69); and of a management frame (R62). The frame keeps
the bank, the generation and the time of its frame start (R41), and its capture record carries them (R164). -/
def Obligations.InspectionReservesOrDrops : Prop :=
  (∀ (p : Pool) (d : DevPol) (e : Line) (k : Nat),
     (grantTest p d e k = true ↔
       k ≤ p.free ∧
       ((p.used.get e + k : Int) ≤ (d.reserve.get e).toNat ∨
         max ((d.reserve.get e.opposite).toNat - p.used.get e.opposite : Int) 0 ≤ (p.free : Int) - k)) ∧
     (k ≤ p.free → p.used.get e + k ≤ (d.reserve.get e).toNat → grantTest p d e k = true)) ∧
  (∀ (l : Line) (sym : Symbol) (b : Byte) (s : State), s.Receives l sym b → (s.port.get l).rx.CompletesAt64 →
     (s.cls.get l).slot = none →
     exec (.symbolReceived l sym) s = .next (inspectionComplete l
       (s.setPort l { (s.port.get l).afterSymbol sym with rx := (s.port.get l).rx.withByte sym b }))) ∧
  (∀ (l : Line) (s : State), s.resetLow = false → (s.port.get l).line = .up → (s.port.get l).rx.state = .inspect →
     exec (.symbolReceived l .endSym) s = exec (.symbolReceived l .endSym) (inspectionComplete l s)) ∧
  (∀ (l : Line) (f : HeaderFacts) (s : State), (s.cls.get l).state = .judging → (s.cls.get l).outcome = .pending →
     (s.cls.get l).facts = some f → (s.cls.get l).reservation = none → (s.cls.get l).slot = none →
     let window := (s.port.get l).rx.bytes.take 64
     let j := (s.store.bank (s.cls.get l).bank).judge l f window
     let e := l.opposite
     let k := cellsFor (20 + f.payload)
     let t := inspectionComplete l s
     let counted : Option CounterId :=
       match j.outcome with
       | .drop r => r.arrivalCounter.map (.arrival l)
       | .pass c =>
         if (s.classPol e c).cellLimit.toNat < s.occupancy e c + k then some (.egress e c .queueLimit)
         else if grantTest s.pool s.active.devpol e k then none
         else some (.egress e c .noCell)
       | _ => none
     let quiet := t.noticeSeq = s.noticeSeq ∧ t.service = s.service ∧ t.offers = s.offers ∧
       ∀ p, t.counters.read (.line p .noticeLost) = s.counters.read (.line p .noticeLost)
     let leaves := fun (st : ClsState) (o : FrameOutcome) (held : Option Descriptor) (r : RxState) =>
       t.cls.get l = { s.cls.get l with
         state := st, outcome := o, trigger := j.trigger, reservation := held, slot := (t.cls.get l).slot } ∧
       (t.port.get l).rx = { (s.port.get l).rx with state := r }
     (∀ h, t.counters.read (.hit h) = (s.counters.read (.hit h)).add (j.hits.count h)) ∧
     (∀ id, counted = some id → t.counters.read id = (s.counters.read id).add 1) ∧
     s.CountsOnly t (fun id =>
       counted = some id ∨ (∃ h, id = .hit h) ∨ id = .capture .missed ∨ ∃ p, id = .line p .noticeLost) ∧
     (∀ r, j.outcome = .drop r →
       leaves .draining (.drop r) none .discard ∧ quiet ∧ t.pool = s.pool ∧ r.arrivalCounter.isSome = true) ∧
     (∀ c, j.outcome = .pass c →
       ((s.classPol e c).cellLimit.toNat < s.occupancy e c + k →
         leaves .draining (.drop .queueLimit) none .discard ∧ quiet ∧ t.pool = s.pool) ∧
       (s.occupancy e c + k ≤ (s.classPol e c).cellLimit.toNat → grantTest s.pool s.active.devpol e k = true →
         leaves .carrying (.pass c)
           (some
             { arrival := l, cls := c, total := 20 + f.payload, cells := k, entry := none, state := .receiving,
               data := [] }) .body ∧
         quiet ∧
         t.pool = { s.pool with free := s.pool.free - k, used := s.pool.used.set e (s.pool.used.get e + k) }) ∧
       (s.occupancy e c + k ≤ (s.classPol e c).cellLimit.toNat → grantTest s.pool s.active.devpol e k = false →
         leaves .draining (.drop .noCell) none .discard ∧ t.pool = { s.pool with armed := false } ∧
         (s.pool.armed = true →
           s.Notifies t [0x05#8, if e = .n then 0x00#8 else 0x01#8, 0x00#8, 0x00#8]) ∧
         (s.pool.armed = false → quiet))) ∧
     (j.trigger = none → (t.cls.get l).slot = none ∧ t.capture = s.capture ∧
       t.counters.read (.capture .missed) = s.counters.read (.capture .missed)) ∧
     (∀ tr, j.trigger = some tr →
       (∀ n, (t.cls.get l).slot = some n → t.capture.slot n = .filling
         { arrival := l, start := (s.cls.get l).start, generation := (s.cls.get l).generation, trigger := tr,
           total := 20 + f.payload, outcome := (t.cls.get l).outcome } window) ∧
       ∃ u, u.capture = s.capture ∧ u.store = s.store ∧ u.cls.get l = { t.cls.get l with slot := none } ∧
         u.CountsOnly t (· = .capture .missed) ∧
         u.counters.read (.capture .missed) = s.counters.read (.capture .missed) ∧
         t.capture = (requestCapture l tr (20 + f.payload) window u).capture ∧
         t.counters = (requestCapture l tr (20 + f.payload) window u).counters ∧
         t.cls.get l = (requestCapture l tr (20 + f.payload) window u).cls.get l) ∧
     t.store.phase = s.phaseLeaving l ∧
     t.port.get l.opposite = s.port.get l.opposite ∧ t.cls.get l.opposite = s.cls.get l.opposite ∧
     t = { s with
       port := t.port, cls := t.cls, store := { s.store with phase := t.store.phase }, pool := t.pool
       capture := t.capture, noticeSeq := t.noticeSeq, service := t.service, offers := t.offers
       counters := t.counters }) ∧
  (∀ (l : Line) (s : State), (s.cls.get l).outcome = .management → inspectionComplete l s =
     { s with
       port := s.port.set l { s.port.get l with rx := { (s.port.get l).rx with state := .body } }
       cls := s.cls.set l { s.cls.get l with state := .gathering }
       store := { s.store with phase := s.phaseLeaving l } })

/-! ## Egress -/

/-- Table 11-1: the bytes of a frame that the screen builds, most significant byte first, with the length of its payload
(R173); its check word is computed over them at launch and follows them (R14, R16). Order 1: a FORCED line pays its
oldest owed entry. Order 2: the oldest service frame, when no cadence frame is forced; a FORCED unit with nothing owed,
which no run reaches, is passed over by the model's choice (log 19). No further offer is outstanding after either launch
(R109, R111; the count of offers is the model's, log 10). -/
def Obligations.ForcedCadenceThenServiceGoFirst : Prop :=
  (∀ v : Half, bytes16 v = [v.extractLsb' 8 8, v.extractLsb' 0 8]) ∧
  (∀ v : Word, bytes32 v = [v.extractLsb' 24 8, v.extractLsb' 16 8, v.extractLsb' 8 8, v.extractLsb' 0 8]) ∧
  (∀ (dest src : StationId) (kind hop : Byte) (flow seq : Half) (payload : List Byte),
     buildFrame dest src kind hop flow seq payload =
       bytes32 dest ++ bytes32 src ++ [kind, hop] ++ bytes16 flow ++ bytes16 seq ++
         bytes16 (BitVec.ofNat 16 payload.length) ++ payload) ∧
  (∀ bs : List Byte, withCheck bs = bs ++ bytes32 (checkWord bs)) ∧
  (∀ (p : Line) (owed : Time) (rest : List Time) (s : State), s.MayDecide p →
     (s.cadence.get p).forced = true → (s.cadence.get p).owed = owed :: rest →
     exec (.egressDecision p) s = .next
       { s with
         cadence := s.cadence.set p
           { s.cadence.get p with
             owed := rest, forced := decide (rest ≠ []), seq := (s.cadence.get p).seq + 1 }
         tx := s.tx.set p
           { s.tx.get p with
             launch := some
               { start := s.timebase
                 bytes := withCheck (buildFrame 0xFFFFFFFF#32 s.active.identity 0x02#8 0 0 (s.cadence.get p).seq
                   (bytes32 owed ++ [byteOf rest.length, (s.portPol p).dmax, 0x00#8, 0x00#8]))
                 source := .cadence } }
         offers := s.offers.set p 0 }) ∧
  (∀ (p : Line) (e : ServiceEntry) (rest : List ServiceEntry) (s : State), s.MayDecide p →
     (s.cadence.get p).forced = false ∨ (s.cadence.get p).owed = [] → s.service.get p = e :: rest →
     exec (.egressDecision p) s = .next
       { s with
         service := s.service.set p rest
         tx := s.tx.set p
           { s.tx.get p with
             launch := some { start := s.timebase, bytes := withCheck e.frame, source := .service e } }
         offers := s.offers.set p 0 })

/-- Order 3: the head of the highest class whose window allows it is launched, and the launch joins its history, under
which the next head is evaluated (R84, R95, R100) and its hold counted (R101). A head whose due release has not been
taken is found held (R104), by the model's reading of that instant (log 27). A FORCED unit with nothing owed, which no
run reaches, is passed over by the model's choice (log 19). The count of offers is the model's (log 10). Table 1-7: the
bytes of a passed frame as launched. -/
def Obligations.HighestAllowedHeadIsLaunched : Prop :=
  (∀ (p : Line) (c : TrafficClass) (d : Descriptor) (rest : List Descriptor) (s : State), s.MayDecide p →
     s.NoEarlierCandidate p → s.queue p c = d :: rest → s.AllowsDecision p c = true →
     (∀ c' > c, s.queue p c' = [] ∨ s.AllowsDecision p c' = false) →
     ∃ t, exec (.egressDecision p) s = .next t ∧
       (t.tx.get p).launch = some
         { start := s.timebase, bytes := passedBytes d, source := .passed { d with state := .launching } } ∧
       (t.lane p c).history = appendHistory (s.lane p c).history s.timebase ∧ t.Evaluated p c ∧
       t.counters.read (.egress p c .windowHolds) =
         (s.counters.read (.egress p c .windowHolds)).add (if (t.lane p c).head = .held then 1 else 0) ∧
       (∀ c' > c, s.queue p c' ≠ [] →
         t.lane p c' =
           { s.lane p c' with
             head := .held, release := some (releaseTime s.timebase (s.lane p c').history (s.classPol p c')) } ∧
         t.counters.read (.egress p c' .windowHolds) =
           (s.counters.read (.egress p c' .windowHolds)).add (if (s.lane p c').head = .held then 0 else 1)) ∧
       (∀ c', c' < c ∨ (c < c' ∧ s.queue p c' = []) → t.lane p c' = s.lane p c' ∧
         t.counters.read (.egress p c' .windowHolds) = s.counters.read (.egress p c' .windowHolds)) ∧
       t.queue p c = rest.dropWhile (overdue s.timebase (s.classPol p c).residence) ∧
       (∀ c', c' ≠ c → t.queue p c' = s.queue p c') ∧
       t.tx.get p.opposite = s.tx.get p.opposite ∧ t.queues.get p.opposite = s.queues.get p.opposite ∧
       t.pacer.get p.opposite = s.pacer.get p.opposite ∧ t.offers.get p = 0 ∧
       s.CountsOnly t (fun id => id = .egress p c .residence ∨ ∃ c', id = .egress p c' .windowHolds) ∧
       t.counters.read (.egress p c .residence) = (s.counters.read (.egress p c .residence)).add
         (rest.takeWhile (overdue s.timebase (s.classPol p c).residence)).length ∧
       (let gone := ((rest.takeWhile (overdue s.timebase (s.classPol p c).residence)).map (·.cells)).sum
        t.pool.free = s.pool.free + gone ∧ t.pool.used = s.pool.used.set p (s.pool.used.get p - gone) ∧
        s.pool.Rearms t.pool) ∧
       ((∀ d' ∈ rest, overdue s.timebase (s.classPol p c).residence d' = false) → t.pool = s.pool) ∧
       t = { s with
         tx := t.tx, queues := t.queues, pacer := t.pacer, pool := t.pool, offers := t.offers
         counters := t.counters }) ∧
  (∀ d : Descriptor, 20 ≤ d.total → d.data.length = d.total →
     (passedBytes d).length = d.total ∧ byteAt (passedBytes d) 9 = byteAt d.data 9 - 1 ∧
     (∀ i < d.total - 4, i ≠ 9 → byteAt (passedBytes d) i = byteAt d.data i) ∧
     wordAt (passedBytes d) (d.total - 4) = checkWord ((passedBytes d).take (d.total - 4)))

/-- Order 4: with no head allowed, the oldest owed entry is paid, by the frame of Table 7-4; with none owed nothing
starts. The heads are evaluated and held (R99, R101). A head whose due release has not been taken is found held (R104),
by the model's reading of that instant (log 27). A FORCED unit with nothing owed, which no run reaches, is passed over
by the model's choice (log 19). The count of offers is the model's (log 10). -/
def Obligations.OpportunisticCadenceGoesLast : Prop :=
  ∀ (p : Line) (s : State), s.MayDecide p → s.NoEarlierCandidate p →
    (∀ c, s.queue p c = [] ∨ s.AllowsDecision p c = false) →
    ∃ t, exec (.egressDecision p) s = .next t ∧
      (∀ owed rest, (s.cadence.get p).owed = owed :: rest →
        t.cadence = s.cadence.set p
          { s.cadence.get p with owed := rest, forced := false, seq := (s.cadence.get p).seq + 1 } ∧
        t.tx = s.tx.set p
          { s.tx.get p with
            launch := some
              { start := s.timebase
                bytes := withCheck (buildFrame 0xFFFFFFFF#32 s.active.identity 0x02#8 0 0 (s.cadence.get p).seq
                  (bytes32 owed ++ [byteOf rest.length, (s.portPol p).dmax, 0x00#8, 0x00#8]))
                source := .cadence } } ∧
        t.offers = s.offers.set p 0) ∧
      ((s.cadence.get p).owed = [] →
        t.tx = s.tx ∧ t.cadence = s.cadence ∧ t.offers = s.offers.set p (s.offers.get p - 1)) ∧
      (∀ c, s.queue p c = [] → t.lane p c = s.lane p c ∧
        t.counters.read (.egress p c .windowHolds) = s.counters.read (.egress p c .windowHolds)) ∧
      (∀ c, s.queue p c ≠ [] →
        t.lane p c =
          { s.lane p c with
            head := .held, release := some (releaseTime s.timebase (s.lane p c).history (s.classPol p c)) } ∧
        t.counters.read (.egress p c .windowHolds) =
          (s.counters.read (.egress p c .windowHolds)).add (if (s.lane p c).head = .held then 0 else 1)) ∧
      s.CountsOnly t (fun id => ∃ c, id = .egress p c .windowHolds) ∧
      t.pacer.get p.opposite = s.pacer.get p.opposite ∧
      t = { s with
        tx := t.tx, cadence := t.cadence, pacer := t.pacer, offers := t.offers, counters := t.counters }

/-- R99: whatever the command, a class head leaves for the line only from the head of its queue, and with its window
open under the bank that is active at that decision. A COMMIT may launch a head at its flip, after the heads before it
have reached the new residence limit and left; every other launch takes the head as it stands. -/
def Obligations.NoHeadLaunchedAgainstWindow : Prop :=
  ∀ (i : Instr) (p : Line) (d : Descriptor) (x : Launch) (s t : State), exec i s = .next t →
    s.txFree p = true → (t.tx.get p).launch = some x → x.source = .passed d →
    ∃ c late d0 rest, s.queue p c = late ++ d0 :: rest ∧ d = { d0 with state := .launching } ∧
      (∀ e ∈ late, overdue s.timebase (t.classPol p c).residence e = true) ∧
      ((∀ ops, i ≠ .commit ops) → late = []) ∧
      ((t.classPol p c).ks = 0 ∨
        ((s.lane p c).history.countP fun t' => (s.timebase - t').toNat < (t.classPol p c).ws.toNat) <
          (t.classPol p c).ks.toNat) ∧
      ((t.classPol p c).kl = 0 ∨
        ((s.lane p c).history.countP fun t' => (s.timebase - t').toNat < (t.classPol p c).wl.toNat) <
          (t.classPol p c).kl.toNat)

/-- The accounting of a completed launch, by its source, which offers a decision (R17, R113; the count of offers is the
model's, log 10). R159, R160: the FULL reset takes effect at the completion of its reply's launch, and cuts the other
line's. -/
def Obligations.CompletedLaunchIsAccounted : Prop :=
  (∀ (p : Line) (x : Launch) (s : State), s.resetLow = false → s.isUp p = true → (s.tx.get p).launch = some x →
     x.source.awaited = false →
     ∃ t, exec (.launchCompletion p) s = .next t ∧ t.txFree p = true ∧
       t.offers = s.offers.set p (s.offers.get p + 1) ∧ t.tx.get p.opposite = s.tx.get p.opposite ∧
       (∀ d, x.source = .passed d →
         t.pool.free = s.pool.free + d.cells ∧ t.pool.used = s.pool.used.set p (s.pool.used.get p - d.cells) ∧
         t.pool.armed = (s.pool.armed || decide (64 < t.pool.free)) ∧
         t.counters.read (.egress p d.cls .launchedFrames) =
           (s.counters.read (.egress p d.cls .launchedFrames)).add 1 ∧
         t.counters.read (.egress p d.cls .launchedOctets) =
           (s.counters.read (.egress p d.cls .launchedOctets)).add d.total ∧
         s.CountsOnly t (fun id =>
           id = .egress p d.cls .launchedFrames ∨ id = .egress p d.cls .launchedOctets)) ∧
       (∀ e, x.source = .service e → t.pool = s.pool ∧
         t.counters = s.counters.add (.line p .serviceFrames) 1) ∧
       (x.source = .cadence → t.pool = s.pool ∧ t.counters = s.counters.add (.line p .cadenceFrames) 1) ∧
       t = { s with tx := t.tx, pool := t.pool, offers := t.offers, counters := t.counters }) ∧
  (∀ (p : Line) (x : Launch) (s : State), s.resetLow = false → (s.tx.get p).launch = some x →
     x.source.awaited = true →
     exec (.launchCompletion p) s = .next
       { State.powerOn s.straps with
         tx := ({ n := s.tx.n.cut, s := s.tx.s.cut } : PerLine Transmitter).set p { launch := none, close := .ended }
         choices := s.choices, pending := s.pending })

/-- R85: the heads whose ages have reached the active limit leave together, oldest first; the next head is evaluated,
its hold counted (R101), and an ELIGIBLE head offers a decision (its count is the model's, log 10). That an expiry
which is not due changes nothing is the model's choice (log 4). -/
def Obligations.ResidenceExpiryRemovesLateHeads : Prop :=
  ∀ (p : Line) (c : TrafficClass) (d : Descriptor) (rest : List Descriptor) (s : State), s.resetLow = false →
    s.queue p c = d :: rest →
    let late := overdue s.timebase (s.classPol p c).residence
    (late d = true → ∃ t, exec (.residenceExpiry p c) s = .next t ∧
      t.queue p c = (d :: rest).dropWhile late ∧
      (let gone := (((d :: rest).takeWhile late).map (·.cells)).sum
       t.pool.free = s.pool.free + gone ∧ t.pool.used = s.pool.used.set p (s.pool.used.get p - gone)) ∧
      t.pool.armed = (s.pool.armed || decide (64 < t.pool.free)) ∧
      t.counters.read (.egress p c .residence) =
        (s.counters.read (.egress p c .residence)).add ((d :: rest).takeWhile late).length ∧
      s.CountsOnly t (fun id => id = .egress p c .residence ∨ id = .egress p c .windowHolds) ∧
      (t.lane p c).history = (s.lane p c).history ∧
      t.Evaluated p c ∧
      t.counters.read (.egress p c .windowHolds) =
        (s.counters.read (.egress p c .windowHolds)).add (if (t.lane p c).head = .held then 1 else 0) ∧
      t.offers = (if (t.lane p c).head = .eligible then s.offered p else s.offers) ∧
      (∀ q k, (q, k) ≠ (p, c) → t.queue q k = s.queue q k ∧ t.lane q k = s.lane q k) ∧
      t = { s with
        queues := t.queues, pacer := t.pacer, pool := t.pool, offers := t.offers, counters := t.counters }) ∧
    (late d = false → exec (.residenceExpiry p c) s = .next s)

/-- R103: a due window release evaluates the head afresh, and the offer it makes is counted (log 10). R96: the oldest
entry leaves its history at 1,000,001 µs, the next event is due by the entry that is now oldest (log 9), and no
eligibility test changes. -/
def Obligations.PacerEventsReleaseAndAge : Prop :=
  (∀ (p : Line) (c : TrafficClass) (s : State), s.resetLow = false → (s.lane p c).release = some s.timebase →
     s.queue p c ≠ [] → (s.lane p c).head = .held →
     (s.Allows p c = true → exec (.windowRelease p c) s = .next
       ({ s with
         offers := if s.isUp p && s.txFree p then s.offers.set p (s.offers.get p + 1) else s.offers }.setLane p c
           { s.lane p c with head := .eligible, release := none })) ∧
     (s.Allows p c = false → exec (.windowRelease p c) s = .next
       (s.setLane p c
         { s.lane p c with release := some (releaseTime s.timebase (s.lane p c).history (s.classPol p c)) }))) ∧
  (∀ (p : Line) (c : TrafficClass) (oldest : Time) (rest : List Time) (s : State), s.resetLow = false →
     (s.lane p c).history = oldest :: rest → oldest + 1000001#32 = s.timebase →
     exec (.ageingEvent p c) s = .next (s.setLane p c { s.lane p c with history := rest }) ∧
     ageingDue rest = rest.head?.map (· + 1000001#32) ∧
     ∀ pol : ClassPol, pol.ok = true →
       windowAllows s.timebase (oldest :: rest) pol = windowAllows s.timebase rest pol)

/-- R98, R102: the release is the earliest time at which both tiers allow the head. -/
def Obligations.ReleaseIsEarliestAllowedTime : Prop :=
  ∀ (now : Time) (h : List Time) (pol : ClassPol), pol.ok = true →
    h.Pairwise (fun a b => age now b ≤ age now a) → (∀ t ∈ h, age now t ≤ 1000001) →
    windowAllows now h pol = false →
    windowAllows (releaseTime now h pol) h pol = true ∧ 0 < age (releaseTime now h pol) now ∧
    ∀ k < age (releaseTime now h pol) now, windowAllows (now + BitVec.ofNat 32 k) h pol = false

/-- R117 to R119: a due cadence expiry is owed, or a slip at debt 8; the next one keeps the
phase. The notice frame of an entry into FORCED or of a slip is taken or lost (R168, R114). -/
def Obligations.CadenceExpiryOwesOrSlips : Prop :=
  ∀ (p : Line) (s : State), s.resetLow = false → (s.cadence.get p).timer = .running s.timebase →
    let u := s.cadence.get p
    let next := Timer.running (s.timebase + (s.portPol p).tc.setWidth 32)
    ∃ t, exec (.cadenceExpiry p) s = .next t ∧ t.cadence.get p.opposite = s.cadence.get p.opposite ∧
      (u.owed.length < 8 →
        t.cadence.get p =
          { u with
            timer := next, owed := u.owed ++ [s.timebase]
            forced := u.forced || decide ((s.portPol p).dmax.toNat ≤ u.owed.length + 1) } ∧
        (u.forced = false → (s.portPol p).dmax.toNat ≤ u.owed.length + 1 →
          s.Notifies t [0x02#8, if p = .n then 0x00#8 else 0x01#8, byteOf (u.owed.length + 1), 0x00#8] ∧
          t.counters.read (.line p .forcedEntries) = (s.counters.read (.line p .forcedEntries)).add 1) ∧
        (u.forced = true ∨ u.owed.length + 1 < (s.portPol p).dmax.toNat →
          t.noticeSeq = s.noticeSeq ∧ t.counters = s.counters ∧ t.service = s.service)) ∧
      (8 ≤ u.owed.length →
        t.cadence.get p = { u with timer := next } ∧
        s.Notifies t [0x03#8, if p = .n then 0x00#8 else 0x01#8, byteOf u.owed.length, 0x00#8] ∧
        t.counters.read (.line p .slips) = (s.counters.read (.line p .slips)).add 1) ∧
      s.CountsOnly t (fun id =>
        id = .line p .forcedEntries ∨ id = .line p .slips ∨ ∃ q, id = .line q .noticeLost) ∧
      (u.owed.length < 8 → t.counters.read (.line p .slips) = s.counters.read (.line p .slips)) ∧
      (8 ≤ u.owed.length → t.counters.read (.line p .forcedEntries) = s.counters.read (.line p .forcedEntries)) ∧
      (s.isUp p = true → s.txFree p = true → s.offers.get p < t.offers.get p) ∧
      t = { s with
        cadence := t.cadence, noticeSeq := t.noticeSeq, service := t.service, offers := t.offers
        counters := t.counters }

/-! ## Requests -/

/-- R136: which payloads parse, and into which commands. R133, R142: a new request of a known key that parses begins
execution, out of the hand in which it stood since its take (log 28). R142: an EDITOR's lease is renewed to its full
length. R132: a stranger's takes the lowest FREE context, or evicts the least recently active READER. -/
def Obligations.NewRequestIsTakenInContext : Prop :=
  (∀ now : Time, Role.reader.renew now = .reader ∧ ∀ (length : Half) (lease : Lease),
     (Role.editor length lease).renew now =
       .editor length (.running (now + BitVec.ofNat 32 (length.toNat * 10000)))) ∧
  (∀ (payload : List Byte) (cs : List Cmd), parsePayload payload = some cs ↔
     1 ≤ cs.length ∧ cs.length ≤ 32 ∧ (∀ c ∈ cs, c.ops.length ≤ 255) ∧
       ∃ x y, payload = [0x00#8, byteOf cs.length, x, y] ++
         cs.flatMap fun c => [c.code, byteOf c.ops.length] ++ c.ops) ∧
  (∀ (r : Request) (i : Fin 4) (c : Context) (cs : List Cmd) (s : State),
     s.resetLow = false → s.agent.state = .executing → s.agent.hand = .taken r →
     s.contexts[i] = some c → c.src = wordAt r.frame 4 → c.line = r.line →
     (∀ j < i, ∀ d, s.contexts[j] = some d → d.src ≠ c.src ∨ d.line ≠ c.line) →
     1 ≤ (halfAt r.frame 12 - c.lastSeq).toNat → (halfAt r.frame 12 - c.lastSeq).toNat ≤ 32768 →
     parsePayload (payloadOf r.frame) = some cs →
     exec .requestTake s = .next
       { s with
         recency := i :: s.recency.filter (· ≠ i)
         contexts := s.contexts.set i.val
           (some { c with lastSeq := halfAt r.frame 12, role := c.role.renew s.timebase }) i.isLt
         agent :=
           { s.agent with
             hand := .request
               { ctx := i, line := r.line, src := wordAt r.frame 4, flow := halfAt r.frame 10,
                 seq := halfAt r.frame 12, results := [], toRun := cs, sections := [], full := false } } }) ∧
  (∀ (r : Request) (i : Fin 4) (cs : List Cmd) (s : State),
     s.resetLow = false → s.agent.state = .executing → s.agent.hand = .taken r →
     (∀ (j : Fin 4) d, s.contexts[j] = some d → d.src ≠ wordAt r.frame 4 ∨ d.line ≠ r.line) →
     (s.contexts[i] = none ∧ ∀ j < i, s.contexts[j].isSome = true) ∨
       ((∀ j : Fin 4, s.contexts[j].isSome = true) ∧ s.isEditor i = false ∧
         ∃ newer older, s.recency = newer ++ i :: older ∧ ∀ j ∈ older, s.isEditor j = true) →
     parsePayload (payloadOf r.frame) = some cs →
     exec .requestTake s = .next
       { s with
         recency := i :: s.recency.filter (· ≠ i)
         contexts := s.contexts.set i.val
           (some
             { src := wordAt r.frame 4, line := r.line, lastSeq := halfAt r.frame 12, reply := none,
               role := .reader }) i.isLt
         agent :=
           { s.agent with
             hand := .request
               { ctx := i, line := r.line, src := wordAt r.frame 4, flow := halfAt r.frame 10,
                 seq := halfAt r.frame 12, results := [], toRun := cs, sections := [], full := false } } })

/-- R134, R135: a duplicate is answered with the stored reply and a stale request with the expected sequence; neither
moves the last sequence, runs a command or stores a reply. R142: a duplicate renews an EDITOR's lease to its full
length. R114: a reply that the service queue takes is offered to the line's arbiter (R109; its count is the model's, log
10), and one that it does not take is lost and counted. R128: the agent then takes the oldest request or waits; that a
request so taken stands in its hand, as this one stood, until a REQUEST_TAKE step of its own is the model's choice (log
28). -/
def Obligations.RepeatedRequestsAreNotExecuted : Prop :=
  ∀ (r : Request) (i : Fin 4) (c : Context) (answered : List Byte) (s : State),
    s.resetLow = false → s.agent.state = .executing → s.agent.hand = .taken r →
    s.contexts[i] = some c → c.src = wordAt r.frame 4 → c.line = r.line →
    (∀ j < i, ∀ d, s.contexts[j] = some d → d.src ≠ c.src ∨ d.line ≠ c.line) →
    (halfAt r.frame 12 = c.lastSeq ∧ c.reply = some answered) ∨
      (32768 < (halfAt r.frame 12 - c.lastSeq).toNat ∧
        answered = buildFrame (wordAt r.frame 4) s.active.identity 0x11#8 64 (halfAt r.frame 10) (halfAt r.frame 12)
          ([0x01#8] ++ bytes32 s.store.generation ++ [0x00#8] ++ bytes16 (c.lastSeq + 1))) →
    ∃ t, exec .requestTake s = .next t ∧
      t.contexts[i] = some
        (if halfAt r.frame 12 = c.lastSeq then
          { c with
            role := match c.role with
              | .reader => .reader
              | .editor length _ => .editor length (.running (s.timebase + BitVec.ofNat 32 (length.toNat * 10000))) }
        else c) ∧
      (s.serviceTakes r.line = true →
        t.service = s.service.set r.line (s.service.get r.line ++
          [{ frame := answered, sort := .reply, builder := .agent, awaited := false }]) ∧
        t.offers = s.offered r.line ∧ t.counters = s.counters) ∧
      (s.serviceTakes r.line = false →
        t.service = s.service ∧ t.offers = s.offers ∧ t.counters = s.counters.add (.line r.line .replyLost) 1) ∧
      t.agent = s.agent.afterFinish ∧
      t.recency = i :: s.recency.filter (· ≠ i) ∧ (∀ j, j ≠ i → t.contexts[j] = s.contexts[j]) ∧
      t = { s with
        contexts := t.contexts, recency := t.recency, agent := t.agent, service := t.service
        offers := t.offers, counters := t.counters }

/-- R136: a malformed new request, of a known key or of a stranger, is answered at once, and its reply is stored. R114:
a reply that the service queue takes is offered to the line's arbiter (R109; its count is the model's, log 10), and one
that it does not take is lost and counted. R128: the agent then takes the oldest request or waits; that a request so
taken stands in its hand, as this one stood, until a REQUEST_TAKE step of its own is the model's choice (log 28). -/
def Obligations.MalformedRequestIsAnswered : Prop :=
  ∀ (r : Request) (i : Fin 4) (c : Context) (s : State),
    s.resetLow = false → s.agent.state = .executing → s.agent.hand = .taken r →
    s.GivesContext r i c → parsePayload (payloadOf r.frame) = none →
    let reply := buildFrame (wordAt r.frame 4) s.active.identity 0x11#8 64 (halfAt r.frame 10) (halfAt r.frame 12)
      ([0x02#8] ++ bytes32 s.store.generation ++ [0x00#8])
    ∃ t, exec .requestTake s = .next t ∧
      t.contexts = s.contexts.set i.val (some { c with reply := some reply }) i.isLt ∧
      (s.serviceTakes r.line = true →
        t.service = s.service.set r.line (s.service.get r.line ++
          [{ frame := reply, sort := .reply, builder := .agent, awaited := false }]) ∧
        t.offers = s.offered r.line ∧ t.counters = s.counters) ∧
      (s.serviceTakes r.line = false →
        t.service = s.service ∧ t.offers = s.offers ∧ t.counters = s.counters.add (.line r.line .replyLost) 1) ∧
      t.agent = s.agent.afterFinish ∧
      t.recency = i :: s.recency.filter (· ≠ i) ∧
      t = { s with
        contexts := t.contexts, recency := t.recency, agent := t.agent, service := t.service
        offers := t.offers, counters := t.counters }

/-- R139, R140: when no command is left the reply is built, stored and handed over, and the request is finished. R114: a
reply that the service queue takes is offered to the line's arbiter (R109; its count is the model's, log 10). R128: the
agent then takes the oldest request or waits; that a request so taken stands in its hand until a REQUEST_TAKE step of
its own is the model's choice (log 28). R159: after RESET FULL it takes none, and waits for the report on the reply. -/
def Obligations.ReplyIsStoredAndHandedOver : Prop :=
  ∀ (h : InHand) (c : Context) (s : State), s.resetLow = false → s.agent.state = .executing →
    s.agent.hand = .request h → h.toRun = [] → s.contexts[h.ctx] = some c →
    let reply := buildFrame h.src s.active.identity 0x11#8 64 h.flow h.seq
      ([0x00#8] ++ bytes32 s.store.generation ++ [byteOf h.results.length] ++
        (h.results.map fun r => [r.code, r.status.code] ++ halfOf r.data.length ++ r.data).flatten)
    ∃ t, exec .requestTake s = .next t ∧
      (h.full = false ∨ s.serviceTakes h.line = true →
        t.contexts = s.contexts.set h.ctx.val (some { c with reply := some reply }) h.ctx.isLt) ∧
      (s.serviceTakes h.line = true →
        t.service = s.service.set h.line (s.service.get h.line ++
          [{ frame := reply, sort := .reply, builder := .agent, awaited := h.full }]) ∧
        t.offers = s.offered h.line ∧ t.counters = s.counters) ∧
      (h.full = false → s.serviceTakes h.line = false →
        t.service = s.service ∧ t.offers = s.offers ∧ t.counters = s.counters.add (.line h.line .replyLost) 1) ∧
      (h.full = false → t.agent = s.agent.afterFinish) ∧
      (h.full = true → s.serviceTakes h.line = true → t.agent = { s.agent with hand := .awaitingReset }) ∧
      (h.full = true → s.serviceTakes h.line = false → t = fullReset s) ∧
      (h.full = false ∨ s.serviceTakes h.line = true →
        t = { s with
          contexts := t.contexts, agent := t.agent, service := t.service, offers := t.offers
          counters := t.counters })

/-- R137, R145: a code that names no command, or a RESET that names no scope, gets its status; and any status but OK
and OK_UNCHANGED stops the request. -/
def Obligations.FailedCommandStopsRequest : Prop :=
  ∀ (h : InHand) (c : Cmd) (rest : List Cmd) (s : State), s.resetLow = false → s.agent.state = .executing →
    s.agent.hand = .request h → h.toRun = c :: rest →
    (c.code ∉ [0x01#8, 0x02#8, 0x10#8, 0x11#8, 0x12#8, 0x13#8, 0x14#8, 0x20#8, 0x21#8, 0x22#8, 0x23#8, 0x30#8] →
      exec .requestTake s = .next (finishCommand h .badCommand [] s)) ∧
    (c.code = 0x30#8 → (c.ops.length ≠ 1 ∨ 2 < (c.ops.getD 0 0).toNat) →
      exec .requestTake s = .next (finishCommand h .badValue [] s)) ∧
    ∀ (status : Status) (data : List Byte),
      let result : Result := { code := c.code, status := status, data := data }
      let goneOn : InHand := { h with results := h.results ++ [result], toRun := rest, sections := [] }
      let notRun := rest.map fun d => ({ code := d.code, status := .notRun, data := [] } : Result)
      let stopped : InHand := { h with results := h.results ++ result :: notRun, toRun := [], sections := [] }
      (status = .ok ∨ status = .okUnchanged → finishCommand h status data s =
        { s with agent := { s.agent with hand := .request goneOn } }) ∧
      (status ≠ .ok → status ≠ .okUnchanged → finishCommand h status data s =
        { s with agent := { s.agent with hand := .request stopped } })

/-! ## Commands -/

/-- R141, R147: OPEN in the order of its judgement. -/
def Obligations.OpenGrantsRenewsOrRefuses : Prop :=
  ∀ (h : InHand) (ops : List Byte) (c : Context) (s : State), s.Running h 0x01#8 ops → s.contexts[h.ctx] = some c →
    let lease := halfAt ops 0
    let length := if lease = 0 then s.active.devpol.defaultLease else lease
    let granted := finishCommand h .ok (bytes16 length)
      { s with
        contexts := s.contexts.set h.ctx.val
          (some { c with role := .editor length (.running (s.timebase + BitVec.ofNat 32 (length.toNat * 10000))) })
          h.ctx.isLt }
    (ops.length ≠ 2 → exec (.openSession ops) s = .next (finishCommand h .badValue [] s)) ∧
    (ops.length = 2 → lease ≠ 0 → lease.toNat < 10 ∨ 60000 < lease.toNat →
      exec (.openSession ops) s = .next (finishCommand h .badValue [] s)) ∧
    (ops.length = 2 → lease = 0 ∨ (10 ≤ lease.toNat ∧ lease.toNat ≤ 60000) →
      (s.editor = some h.ctx → exec (.openSession ops) s = .next granted) ∧
      (∀ i d, s.editor = some i → i ≠ h.ctx → s.contexts[i] = some d → exec (.openSession ops) s =
        .next (finishCommand h .heldByOther (bytes32 d.src ++ [lineCode d.line]) s)) ∧
      (s.editor = none → s.store.phase ≠ .steady →
        exec (.openSession ops) s = .next (finishCommand h .busy [] s)) ∧
      (s.editor = none → s.store.phase = .steady → exec (.openSession ops) s = .next granted))

/-- R145 steps 2 and 4: the staging commands are judged by role before operand form, and a wrong operand length of any
command is BAD_VALUE with no data; either way nothing changes but the request in hand. -/
def Obligations.StagingCommandsAreJudgedByRoleFirst : Prop :=
  ∀ (h : InHand) (ops : List Byte) (s : State),
    (s.isEditor h.ctx = false →
      (s.Running h 0x02#8 ops → exec (.closeSession ops) s = .next (finishCommand h .notEditor [] s)) ∧
      (s.Running h 0x11#8 ops → exec (.wr ops) s = .next (finishCommand h .notEditor [] s)) ∧
      (s.Running h 0x12#8 ops → exec (.fill ops) s = .next (finishCommand h .notEditor [] s)) ∧
      (s.Running h 0x13#8 ops → exec (.commit ops) s = .next (finishCommand h .notEditor [] s)) ∧
      (s.Running h 0x14#8 ops → exec (.revert ops) s = .next (finishCommand h .notEditor [] s))) ∧
    (s.isEditor h.ctx = true → ops ≠ [] →
      (s.Running h 0x02#8 ops → exec (.closeSession ops) s = .next (finishCommand h .badValue [] s)) ∧
      (s.Running h 0x13#8 ops → exec (.commit ops) s = .next (finishCommand h .badValue [] s)) ∧
      (s.Running h 0x14#8 ops → exec (.revert ops) s = .next (finishCommand h .badValue [] s))) ∧
    (s.Running h 0x10#8 ops → ops.length ≠ 6 → exec (.rd ops) s = .next (finishCommand h .badValue [] s)) ∧
    (s.Running h 0x20#8 ops → ops.length ≠ 3 → exec (.stat ops) s = .next (finishCommand h .badValue [] s)) ∧
    (s.Running h 0x21#8 ops → ops.length ≠ 1 → exec (.capt ops) s = .next (finishCommand h .badValue [] s)) ∧
    (s.Running h 0x22#8 ops → ops.length ≠ 1 → exec (.free ops) s = .next (finishCommand h .badValue [] s)) ∧
    (s.Running h 0x23#8 ops → ops ≠ [] → exec (.query ops) s = .next (finishCommand h .badValue [] s))

/-- R55, R144: CLOSE and REVERT return at once with CLEAN staging, and start a waited revert with DIRTY staging. -/
def Obligations.CloseAndRevertAwaitDirtyStaging : Prop :=
  ∀ (h : InHand) (c : Context) (length : Half) (due : Time) (s : State), s.contexts[h.ctx] = some c →
    c.role = .editor length (.running due) →
    let waiting :=
      { s with
        store := { s.store with phase := .refilling s.timebase }
        contexts := s.contexts.set h.ctx.val
          (some { c with role := .editor length (.paused (due - s.timebase)) }) h.ctx.isLt
        agent := { s.agent with state := .commitWait } }
    (s.Running h 0x02#8 [] → s.store.dirty = false → exec (.closeSession []) s = .next
      (finishCommand h .ok []
        { s with contexts := s.contexts.set h.ctx.val (some { c with role := .reader }) h.ctx.isLt })) ∧
    (s.Running h 0x02#8 [] → s.store.dirty = true → exec (.closeSession []) s = .next waiting) ∧
    (s.Running h 0x14#8 [] → s.store.dirty = false → exec (.revert []) s =
      .next (finishCommand h .okUnchanged (bytes32 s.store.generation) s)) ∧
    (s.Running h 0x14#8 [] → s.store.dirty = true → exec (.revert []) s = .next waiting)

/-- R138, R146: the room for a list command's result: 1008 bytes less 6 fixed ones, 4 for each command of the request,
the data of the commands before, and 8 for each command after. R148: RD in the order of its judgement; it changes
nothing but the request in hand. -/
def Obligations.ReadReturnsEntriesThatFit : Prop :=
  (∀ h : InHand, resultRoom h =
     1008 - (6 + 4 * (h.results.length + h.toRun.length) + (h.results.map fun r => r.data.length).sum +
       8 * (h.toRun.length - 1))) ∧
  ∀ (h : InHand) (bank table : Byte) (first count : Half) (s : State),
    let ops := [bank, table] ++ bytes16 first ++ bytes16 count
    s.Running h 0x10#8 ops →
    let badForm := (1 < bank.toNat) ∨ count = 0 ∨ 1024 < count.toNat
    (badForm → exec (.rd ops) s = .next (finishCommand h .badValue [] s)) ∧
    (¬ badForm → TableId.ofCode table = none → exec (.rd ops) s = .next (finishCommand h .badTable [] s)) ∧
    ∀ t, ¬ badForm → TableId.ofCode table = some t →
      (t.entries < first.toNat + count.toNat → exec (.rd ops) s = .next (finishCommand h .badIndex [] s)) ∧
      (first.toNat + count.toNat ≤ t.entries →
        (bank = 1 → s.store.phase ≠ .steady → exec (.rd ops) s = .next (finishCommand h .busy [] s)) ∧
        (bank = 0 ∨ s.store.phase = .steady →
          let source := if bank = 0 then s.store.activeBank else s.store.stagingBank
          let items := (List.range count.toNat).map fun k => source.entryBytes t (first.toNat + k)
          ((items.map List.length).sum ≤ resultRoom h →
            exec (.rd ops) s = .next (finishCommand h .ok items.flatten s)) ∧
          (resultRoom h < (items.map List.length).sum → ∃ n < items.length,
            ((items.take n).map List.length).sum ≤ resultRoom h ∧
            resultRoom h < ((items.take (n + 1)).map List.length).sum ∧
            exec (.rd ops) s = .next (finishCommand h .truncated (items.take n).flatten s))))

/-- Tables 2-1 and 11-2: the tables, their codes and their entries. R171: the operand lengths that WR takes. R23, R149:
WR from the EDITOR: form, table, index, fields, and the staging entry replaced. A WR whose operand ends before its
index: without its table code it is BAD_VALUE (the model's choice, log 12), and of RULES it is judged with some index
(a free value, log 13). -/
def Obligations.WriteReplacesStagingEntry : Prop :=
  [0x01#8, 0x02#8, 0x03#8, 0x04#8, 0x05#8, 0x06#8, 0x07#8].map TableId.ofCode =
    [TableId.station, .groupmap, .rules, .flowmap, .classpol, .portpol, .devpol].map some ∧
  (∀ code : Byte, code = 0x00#8 ∨ 7 < code.toNat → TableId.ofCode code = none) ∧
  [TableId.station, .groupmap, .rules, .flowmap, .classpol, .portpol, .devpol].map TableId.entries =
    [32, 64, 8, 1024, 16, 2, 1] ∧
  (∀ (h : InHand) (ops : List Byte) (s : State), s.Running h 0x11#8 ops → s.isEditor h.ctx = true →
    (ops = [] → exec (.wr ops) s = .next (finishCommand h .badValue [] s)) ∧
    ∀ table rest, ops = table :: rest → rest.length < 2 →
      (TableId.ofCode table = none → exec (.wr ops) s = .next (finishCommand h .badTable [] s)) ∧
      (TableId.ofCode table ≠ none → table ≠ 0x03#8 →
        exec (.wr ops) s = .next (finishCommand h .badValue [] s)) ∧
      (table = 0x03#8 → ∃ i : Half, exec (.wr ops) s = .next
        (if 8 ≤ i.toNat then finishCommand h .badIndex [] s
          else finishCommand h .badValue (0x03#8 :: bytes16 i) s))) ∧
  ∀ (h : InHand) (table : Byte) (index : Half) (entry : List Byte) (s : State),
    let ops := [table] ++ bytes16 index ++ entry
    (entryFormOk 3 ops = true ↔ EntrySized table entry) ∧
    (s.Running h 0x11#8 ops → s.isEditor h.ctx = true →
    (entryFormOk 3 ops = false → exec (.wr ops) s = .next (finishCommand h .badValue [] s)) ∧
    (TableId.ofCode table = none → exec (.wr ops) s = .next (finishCommand h .badTable [] s)) ∧
    ∀ t, TableId.ofCode table = some t → entryFormOk 3 ops = true →
      (t.entries ≤ index.toNat → exec (.wr ops) s = .next (finishCommand h .badIndex [] s)) ∧
      (index.toNat < t.entries →
        (s.store.stagingBank.write t index.toNat entry = none → exec (.wr ops) s =
          .next (finishCommand h .badValue (table :: bytes16 index) s)) ∧
        ∀ b, s.store.stagingBank.write t index.toNat entry = some b →
          ∃ u, exec (.wr ops) s = .next (finishCommand h .ok [] u) ∧ u = { s with store := u.store } ∧
            u.store.stagingBank = b ∧ u.store.activeBank = s.store.activeBank ∧ u.store.dirty = true ∧
            u.store.active = s.store.active ∧ u.store.generation = s.store.generation ∧
            u.store.phase = s.store.phase))

/-- R171: the operand lengths that FILL takes. R24, R149: FILL from the EDITOR covers every entry of its table, but
for STATION entry 0. A FILL without its table code is BAD_VALUE (the model's choice, log 12). -/
def Obligations.FillReplacesStagingTable : Prop :=
  (∀ (h : InHand) (s : State), s.Running h 0x12#8 [] → s.isEditor h.ctx = true →
    exec (.fill []) s = .next (finishCommand h .badValue [] s)) ∧
  ∀ (h : InHand) (table : Byte) (entry : List Byte) (s : State),
    let ops := [table] ++ entry
    (entryFormOk 1 ops = true ↔ EntrySized table entry) ∧
    (s.Running h 0x12#8 ops → s.isEditor h.ctx = true →
    (entryFormOk 1 ops = false → exec (.fill ops) s = .next (finishCommand h .badValue [] s)) ∧
    (TableId.ofCode table = none → exec (.fill ops) s = .next (finishCommand h .badTable [] s)) ∧
    ∀ t, TableId.ofCode table = some t → entryFormOk 1 ops = true →
      let first := if t = .station then 1 else 0
      (s.store.stagingBank.write t first entry = none → exec (.fill ops) s =
        .next (finishCommand h .badValue (table :: halfOf first) s)) ∧
      (s.store.stagingBank.write t first entry ≠ none →
        ∃ u, exec (.fill ops) s = .next (finishCommand h .ok [] u) ∧ u = { s with store := u.store } ∧
          (∀ i, first ≤ i → i < t.entries →
            u.store.stagingBank.write t i entry = some u.store.stagingBank) ∧
          (∀ t', t' ≠ t → ∀ i, u.store.stagingBank.entryBytes t' i = s.store.stagingBank.entryBytes t' i) ∧
          u.store.stagingBank.station[(0 : Fin 32)] = s.store.stagingBank.station[(0 : Fin 32)] ∧
          u.store.activeBank = s.store.activeBank ∧ u.store.dirty = true ∧
          u.store.active = s.store.active ∧ u.store.generation = s.store.generation ∧
          u.store.phase = s.store.phase))

/-- R46, R47: COMMIT of CLEAN staging changes nothing, and neither does one that fails a commit-time check. R39, R48,
R142: one that passes flips, in any state whose entries pass their checks (R23, R25) and whose head states agree with
the queues (R100, R102): the other bank is active, the generation advances, the classifiers in classification are not
adopted, the lease is paused and the agent waits. R87, R105, R123: at the flip the queues, the pacers and the cadence
units of both lines go by the new bank, in whichever order they and the arbiters act (log 11); each arbiter with a free
transmitter is offered a decision (the count of offers is the model's, log 10; a FORCED unit with nothing owed is passed
over, log 19); no cells are taken back, and those of the frames that leave return; and the frames of the CADENCE_FORCED
notices are built under the new bank, and taken or lost (R168, R114, log 24). -/
def Obligations.CommitFlipsOnlyCheckedDirtyStaging : Prop :=
  (∀ (h : InHand) (s : State), s.Running h 0x13#8 [] → s.isEditor h.ctx = true →
     let b := s.store.stagingBank
     (s.store.dirty = false → exec (.commit []) s =
       .next (finishCommand h .okUnchanged (bytes32 s.store.generation) s)) ∧
     (s.store.dirty = true →
       (b.devpol.admission = .listed ∧
         (∀ i : Fin 31, b.station[i.succ].valid = false ∨ b.station[i.succ].manager = false)) ∨
       (∃ g, b.devpol.target = some g ∧ g.station = b.station[(0 : Fin 32)].id) →
       exec (.commit []) s = .next (finishCommand h .badValue [0x07#8, 0x00#8, 0x00#8] s))) ∧
  (∀ (h : InHand) (c : Context) (length : Half) (due : Time) (s : State), s.Running h 0x13#8 [] →
     s.contexts[h.ctx] = some c → c.role = .editor length (.running due) → s.store.dirty = true →
     s.store.stagingBank.commitOk = true → s.EntriesInv → s.HeadsInv →
     ∃ t, exec (.commit []) s = .next t ∧
       t.store =
         { s.store with
           active := s.store.active.other
           generation := if s.store.generation = 0xFFFFFFFF#32 then 1 else s.store.generation + 1
           phase :=
             if (s.cls.get .n).state = .judging ∨ (s.cls.get .s).state = .judging then
               .adopting
                 { n := decide ((s.cls.get .n).state ≠ .judging), s := decide ((s.cls.get .s).state ≠ .judging) }
             else .refilling s.timebase } ∧
       t.contexts = s.contexts.set h.ctx.val
         (some { c with role := .editor length (.paused (due - s.timebase)) }) h.ctx.isLt ∧
       t.agent = { s.agent with state := .commitWait } ∧
       (∀ p, t.isUp p = true → (t.cadence.get p).timer =
         if (t.portPol p).tc = (s.portPol p).tc then (s.cadence.get p).timer
         else if (t.portPol p).tc = 0 then .stopped
         else .running (s.timebase + (t.portPol p).tc.setWidth 32)) ∧
       (∀ p x, (s.tx.get p).launch = some x → (t.tx.get p).launch = some x) ∧
       (∀ p c, let late := overdue s.timebase (t.classPol p c).residence
         t.queue p c <:+ s.queue p c ∧ (∀ d rest, t.queue p c = d :: rest → late d = false) ∧
         t.Evaluated p c ∧
         (t.tx.get p = s.tx.get p →
           t.queue p c = (s.queue p c).dropWhile late ∧ (t.lane p c).history = (s.lane p c).history ∧
           t.counters.read (.egress p c .residence) =
             (s.counters.read (.egress p c .residence)).add ((s.queue p c).takeWhile late).length ∧
           (t.queue p c = s.queue p c → t.counters.read (.egress p c .windowHolds) =
             (s.counters.read (.egress p c .windowHolds)).add
               (if (t.lane p c).head = .held ∧ (s.lane p c).head ≠ .held then 1 else 0)))) ∧
       (∀ p, let due := (t.portPol p).dmax.toNat ≤ (s.cadence.get p).owed.length
         (1 ≤ (t.portPol p).dmax.toNat → (t.portPol p).dmax.toNat ≤ (t.cadence.get p).owed.length →
           (t.cadence.get p).forced = true) ∧
         (t.tx.get p = s.tx.get p →
           t.cadence.get p =
             { s.cadence.get p with
               timer := (t.cadence.get p).timer, forced := (s.cadence.get p).forced || decide due } ∧
           t.counters.read (.line p .forcedEntries) =
             (s.counters.read (.line p .forcedEntries)).add
               (if (s.cadence.get p).forced = false ∧ due then 1 else 0))) ∧
       (∀ p,
         (s.isUp p = true → s.txFree p = true →
           ((t.tx.get p).launch ≠ none ∧ t.offers.get p = 0) ∨
             ((t.tx.get p).launch = none ∧
               (s.offers.get p < t.offers.get p ∨
                 (t.offers.get p = s.offers.get p ∧ t.service.get p = [] ∧ (t.cadence.get p).owed = [] ∧
                   ∀ c, t.queue p c = [] ∨ t.Allows p c = false)))) ∧
         (s.isUp p = false ∨ s.txFree p = false → t.offers.get p = s.offers.get p)) ∧
       (let held := fun (x : State) p => x.queuedCells p + (x.tx.get p).cells
        t.pool.free = s.pool.free + (held s .n - held t .n) + (held s .s - held t .s) ∧
        (∀ p, t.pool.used.get p = s.pool.used.get p - (held s p - held t p)) ∧ s.pool.Rearms t.pool) ∧
       (∃ entries : List (Line × Nat),
         (entries.map Prod.fst).Nodup ∧
         (∀ p debt, (p, debt) ∈ entries →
           (s.cadence.get p).forced = false ∧ (t.portPol p).dmax.toNat ≤ debt ∧
           (debt = (s.cadence.get p).owed.length ∨
             (t.tx.get p ≠ s.tx.get p ∧ debt + 1 = (s.cadence.get p).owed.length))) ∧
         (∀ p, t.tx.get p = s.tx.get p → (s.cadence.get p).forced = false → (t.cadence.get p).forced = true →
           (p, (s.cadence.get p).owed.length) ∈ entries) ∧
         (∀ p, t.counters.read (.line p .forcedEntries) =
           (s.counters.read (.line p .forcedEntries)).add ((entries.map Prod.fst).count p)) ∧
         t.noticeSeq = s.noticeSeq + BitVec.ofNat 16 entries.length ∧
         ∀ q, ∃ kept : List ServiceEntry,
           let sent := if s.txFree q then (t.tx.get q).serviceSent else []
           let built := match t.active.devpol.target with
             | some g => if g.line = q then entries.zipIdx.map fun x =>
                 { frame := buildFrame g.station t.active.identity 0x12#8 64 0
                     (s.noticeSeq + BitVec.ofNat 16 (x.2 + 1))
                     ([0x02#8, if x.1.1 = .n then 0x00#8 else 0x01#8, byteOf x.1.2, 0x00#8] ++
                       bytes32 s.timebase ++ bytes32 t.store.generation)
                   sort := .notice, builder := .noticeUnit, awaited := false : ServiceEntry }
               else []
             | none => []
           sent ++ t.service.get q = s.service.get q ++ kept ∧ kept.Sublist built ∧
           (sent = [] → kept = if s.isUp q then built.take (4 - (s.service.get q).length) else []) ∧
           t.counters.read (.line q .noticeLost) =
             (s.counters.read (.line q .noticeLost)).add (built.length - kept.length)) ∧
       s.CountsOnly t (fun id =>
         (∃ p c, id = .egress p c .residence ∨ id = .egress p c .windowHolds) ∨
           ∃ p, id = .line p .forcedEntries ∨ id = .line p .noticeLost) ∧
       t = { s with
         store := t.store, contexts := t.contexts, agent := t.agent, queues := t.queues, pacer := t.pacer
         cadence := t.cadence, tx := t.tx, offers := t.offers, service := t.service, pool := t.pool
         noticeSeq := t.noticeSeq, counters := t.counters, choices := t.choices })

/-- R53 to R55, R144: a copy-back makes staging equal to active, and lets the waiting command return. -/
def Obligations.CopyBackCompletionEndsWait : Prop :=
  ∀ (begun : Time) (s : State), s.resetLow = false → s.store.phase = .refilling begun →
    let u := { s with store := { s.store.setStaging s.store.activeBank with phase := .steady, dirty := false } }
    u.store.stagingBank = s.store.activeBank ∧ u.store.activeBank = s.store.activeBank ∧
    (s.agent.state ≠ .commitWait → exec .copyBackCompletion s = .next u) ∧
    ∀ (h : InHand) (c : Context) (length : Half) (left : Time) (cmd : Cmd) (rest : List Cmd),
      s.agent.state = .commitWait → s.agent.hand = .request h → h.toRun = cmd :: rest →
      s.contexts[h.ctx] = some c → c.role = .editor length (.paused left) →
      exec .copyBackCompletion s = .next
        (finishCommand h .ok (if cmd.code = 0x02#8 then [] else bytes32 s.store.generation)
          { u with
            agent := { s.agent with state := .executing }
            contexts := s.contexts.set h.ctx.val
              (some { c with
                role := if cmd.code = 0x02#8 then .reader else .editor length (.running (s.timebase + left)) })
              h.ctx.isLt })

/-- R151, R138, R170: which counters a group and a selector name, in the order of Table 10-6. STAT reads the leading
counters of its group that fit, and with the clear flag sets those to 0. A group so cleared reads as before beyond
them, and so does every other group. That the group and the clear flag are judged before the selector is the model's
choice (log 25). -/
def Obligations.StatReadsAndClearsGroup : Prop :=
  (∀ c : TrafficClass,
     statTarget 0x00#8 0x00#8 = some (some (.arrival .n)) ∧ statTarget 0x00#8 0x01#8 = some (some (.arrival .s)) ∧
     statTarget 0x01#8 (byteOf c.val) = some (some (.egress .n c)) ∧
     statTarget 0x01#8 (byteOf (8 + c.val)) = some (some (.egress .s c)) ∧
     statTarget 0x02#8 0x00#8 = some (some (.line .n)) ∧ statTarget 0x02#8 0x01#8 = some (some (.line .s)) ∧
     statTarget 0x03#8 0x00#8 = some (some .hits) ∧ statTarget 0x04#8 0x00#8 = some (some .capture)) ∧
  (∀ (b : Counters) (l : Line) (c : TrafficClass),
     b.group (.arrival l) =
       [.framesReceived, .octetsReceived, .integrity, .length, .hop, .screenAddressed, .terminated, .ruleDrop,
         .stationDrop, .groupMiss, .unmatchedDrop, .mgmtAccepted, .mgmtOverflow, .mgmtRefused].map
         (fun k => b.read (.arrival l k)) ∧
     b.group (.egress l c) =
       [.accepted, .launchedFrames, .launchedOctets, .queueLimit, .noCell, .residence, .flush, .launchAbort,
         .windowHolds].map (fun k => b.read (.egress l c k)) ∧
     b.group (.line l) =
       [.cadenceFrames, .forcedEntries, .slips, .serviceFrames, .replyLost, .noticeLost].map
         (fun k => b.read (.line l k)) ∧
     b.group .hits =
       ((List.finRange 31).map HitCounter.station ++ (List.finRange 8).map HitCounter.rule ++
         [HitCounter.groupPass, .groupMiss, .unmatchedPass]).map (fun k => b.read (.hit k)) ∧
     b.group .capture = [.taken, .missed].map (fun k => b.read (.capture k))) ∧
  (∀ (h : InHand) (group selector clear : Byte) (s : State), s.Running h 0x20#8 [group, selector, clear] →
     (4 < group.toNat ∨ 1 < clear.toNat →
       exec (.stat [group, selector, clear]) s = .next (finishCommand h .badValue [] s)) ∧
     (group.toNat ≤ 4 → clear.toNat ≤ 1 →
       (if group = 1 then 16 else if group = 0 ∨ group = 2 then 2 else 1) ≤ selector.toNat →
       exec (.stat [group, selector, clear]) s = .next (finishCommand h .badIndex [] s)) ∧
     ∀ t, statTarget group selector = some (some t) → clear.toNat ≤ 1 →
       let items := (s.counters.group t).map Counter.bytes
       ∃ n ≤ items.length,
         ((items.take n).map List.length).sum ≤ resultRoom h ∧
         (n < items.length → resultRoom h < ((items.take (n + 1)).map List.length).sum) ∧
         exec (.stat [group, selector, clear]) s = .next
           (finishCommand h (if n = items.length then .ok else .truncated) (items.take n).flatten
             { s with
               counters := if clear = 1 then s.counters.clearGroup t n else s.counters })) ∧
  (∀ (b : Counters) (t : StatTarget) (n : Nat),
     (b.clearGroup t n).group t =
       ((b.group t).take n).map Counter.clear ++ (b.group t).drop n ∧
     (∀ t', t' ≠ t → (b.clearGroup t n).group t' = b.group t') ∧
     (∀ k : Counter, k.clear.toNat = 0))

/-- Table 11-9: the record of a HELD slot; an outcome that no record holds reads as PASS, the model's choice (log 19).
R154, R155, R138: CAPT reads the leading items of a slot that fit, without changing it; FREE empties a HELD slot, and
refuses a FILLING one; the other claims stay in their order (R162). -/
def Obligations.CaptureSlotsAreReadAndFreed : Prop :=
  ∀ (h : InHand) (slot : Byte) (s : State),
    (s.Running h 0x21#8 [slot] → 3 < slot.toNat →
      exec (.capt [slot]) s = .next (finishCommand h .badIndex [] s)) ∧
    (s.Running h 0x22#8 [slot] → 3 < slot.toNat →
      exec (.free [slot]) s = .next (finishCommand h .badIndex [] s)) ∧
    ∀ k : Fin 4, slot.toNat = k.val →
      (s.Running h 0x21#8 [slot] →
        (∀ r bs, s.capture.slot k = .held r bs →
          let record := [if r.arrival = .n then 0x00#8 else 0x01#8] ++ bytes32 r.start ++ bytes32 r.generation ++
            (match r.trigger with
              | .rule n => [0x00#8, byteOf n.val]
              | .station n => [0x01#8, byteOf n.val]) ++
            halfOf r.total ++ [byteOf bs.length] ++
            (match r.outcome with
              | .pass c => [0x00#8, byteOf c.val]
              | .drop .ruleDrop => [0x01#8, 0x00#8]
              | .drop .stationDrop => [0x02#8, 0x00#8]
              | .drop .groupMiss => [0x03#8, 0x00#8]
              | .drop .unmatchedDrop => [0x04#8, 0x00#8]
              | .drop .queueLimit => [0x05#8, 0x00#8]
              | .drop .noCell => [0x06#8, 0x00#8]
              | _ => [0x00#8, 0x00#8])
          (17 + bs.length ≤ resultRoom h → exec (.capt [slot]) s =
            .next (finishCommand h .ok ([0x02#8] ++ record ++ bs) s)) ∧
          (17 ≤ resultRoom h → resultRoom h < 17 + bs.length → exec (.capt [slot]) s =
            .next (finishCommand h .truncated ([0x02#8] ++ record) s)) ∧
          (1 ≤ resultRoom h → resultRoom h < 17 → exec (.capt [slot]) s =
            .next (finishCommand h .truncated [0x02#8] s))) ∧
        (resultRoom h = 0 → exec (.capt [slot]) s = .next (finishCommand h .truncated [] s)) ∧
        (∀ r bs, s.capture.slot k = .filling r bs → 1 ≤ resultRoom h → exec (.capt [slot]) s =
          .next (finishCommand h .ok [0x01#8] s)) ∧
        (s.capture.slot k = .empty → 1 ≤ resultRoom h → exec (.capt [slot]) s =
          .next (finishCommand h .ok [0x00#8] s))) ∧
      (s.Running h 0x22#8 [slot] →
        (∀ r bs, s.capture.slot k = .held r bs → ∃ c, exec (.free [slot]) s =
          .next (finishCommand h .ok [] { s with capture := c }) ∧ c.slot k = .empty ∧
          c.claims = s.capture.claims.filter (· ≠ k) ∧ ∀ j, j ≠ k → c.slot j = s.capture.slot j) ∧
        (s.capture.slot k = .empty → exec (.free [slot]) s = .next (finishCommand h .ok [] s)) ∧
        (∀ r bs, s.capture.slot k = .filling r bs → exec (.free [slot]) s =
          .next (finishCommand h .busy [] s)))

/-- Table 11-8: the nine sections of QUERY, with the class occupancy of R82. R152, R153: QUERY reads its next section,
one in each act (log 14), and the ninth ends it with OK. -/
def Obligations.QueryReadsNextSection : Prop :=
  (∀ s : State, lineCode .n = 0x00#8 ∧ lineCode .s = 0x01#8 ∧
     s.querySection 0 = bytes32 s.store.generation ++
       [match s.store.phase with
         | .steady => 0x00#8
         | .adopting _ => 0x01#8
         | .refilling _ => 0x02#8, if s.store.dirty then 0x01#8 else 0x00#8] ∧
     s.querySection 1 = [Line.n, Line.s].map (fun l =>
       match (s.port.get l).line with
         | .down => 0x00#8
         | .aligning => 0x01#8
         | .up => 0x02#8) ∧
     s.querySection 2 = [Line.n, Line.s].flatMap (fun p => (List.finRange 8).flatMap fun c =>
       halfOf (s.queue p c).length ++ halfOf (s.occupancy p c)) ∧
     (∀ p c, s.occupancy p c = ((s.queue p c).map (·.cells)).sum +
       (match (s.cls.get p.opposite).reservation with
         | some d => if d.cls = c then d.cells else 0
         | none => 0)) ∧
     s.querySection 3 = [Line.n, Line.s].flatMap (fun p =>
       [byteOf (s.cadence.get p).owed.length, if (s.cadence.get p).forced then 0x01#8 else 0x00#8]) ∧
     s.querySection 4 = halfOf s.pool.free ∧
     s.querySection 5 = (List.finRange 4).flatMap (fun i =>
       match s.contexts[i] with
         | none => [0x00#8, 0x00#8, 0x00#8, 0x00#8, 0x00#8, 0x00#8]
         | some c => [if c.role = .reader then 0x01#8 else 0x02#8] ++ bytes32 c.src ++ [lineCode c.line]) ∧
     s.querySection 6 = (List.finRange 4).map (fun k =>
       match s.capture.slot k with
         | .empty => 0x00#8
         | .filling _ _ => 0x01#8
         | .held _ _ => 0x02#8) ∧
     s.querySection 7 = bytes16 s.noticeSeq ∧ s.querySection 8 = bytes32 s.timebase) ∧
  (∀ (h : InHand) (s : State), s.Running h 0x23#8 [] →
     let x := s.querySection h.sections.length
     (h.sections.flatten.length + x.length ≤ resultRoom h → h.sections.length < 8 →
       exec (.query []) s = .next
         { s with agent := { s.agent with hand := .request { h with sections := h.sections ++ [x] } } }) ∧
     (h.sections.flatten.length + x.length ≤ resultRoom h → h.sections.length = 8 →
       exec (.query []) s = .next (finishCommand h .ok (h.sections ++ [x]).flatten s)) ∧
     (resultRoom h < h.sections.flatten.length + x.length →
       exec (.query []) s = .next (finishCommand h .truncated h.sections.flatten s)))

/-- R157: RESET COUNTERS clears every counter and nothing else. R156, R159: RESET FULL returns OK and marks the request
in hand, by a field of the model's own (log 17). -/
def Obligations.ResetCountersAndFullReturnAtOnce : Prop :=
  ∀ (h : InHand) (s : State),
    (s.Running h 0x30#8 [0x00#8] → ∃ b, (∀ id, (b.read id).toNat = 0) ∧
      exec .resetCounters s = .next (finishCommand h .ok [] { s with counters := b })) ∧
    (s.Running h 0x30#8 [0x02#8] → exec .resetFull s =
      .next (finishCommand { h with full := true } .ok [] s))

/-- R158: RESET TRAFFIC clears the traffic and leaves the configuration and the management state. -/
def Obligations.ResetTrafficClearsTraffic : Prop :=
  ∀ (h : InHand) (s : State), s.Running h 0x30#8 [0x01#8] →
    ∃ t, exec .resetTraffic s = .next (finishCommand h .ok [] t) ∧
      (∀ p c, t.queue p c = [] ∧ t.lane p c = { history := [], head := .none, release := none } ∧
        t.counters.read (.egress p c .flush) =
          (s.counters.read (.egress p c .flush)).add (s.queue p c).length) ∧
      (∀ p, t.cadence.get p =
        { s.cadence.get p with
          owed := [], forced := false
          timer := if s.isUp p = true ∧ (s.portPol p).tc ≠ 0
            then .running (s.timebase + (s.portPol p).tc.setWidth 32) else .stopped }) ∧
      (∀ l,
        t.port.get l =
          { s.port.get l with
            rx := { (s.port.get l).rx with
              state := if (s.port.get l).rx.state = .idle then .idle else .discard } } ∧
        t.cls.get l =
          { s.cls.get l with
            slot := none, resetMark := (s.cls.get l).resetMark || decide ((s.cls.get l).state ≠ .idle) }) ∧
      s.CountsOnly t (fun id => ∃ p c, id = .egress p c .flush) ∧
      (∀ k, t.capture.slot k = .empty) ∧ t.capture.claims = [] ∧
      t.pool.free = s.pool.free + s.queuedCells .n + s.queuedCells .s ∧
      (∀ p, t.pool.used.get p = s.pool.used.get p - s.queuedCells p) ∧ s.pool.Rearms t.pool ∧
      t = { s with
        port := t.port, cls := t.cls, pool := t.pool, queues := t.queues, pacer := t.pacer, cadence := t.cadence
        capture := t.capture, counters := t.counters }

/-- R143: a lease that falls due ends the session, starts the revert of DIRTY staging and raises LEASE_EXPIRED. R114: a
notice that the service queue takes is offered to the line's arbiter (R109; its count is the model's, log 10), and one
that it does not take is lost and counted. -/
def Obligations.LeaseExpiryEndsSession : Prop :=
  ∀ (i : Fin 4) (c : Context) (length : Half) (s : State), s.resetLow = false → s.contexts[i] = some c →
    c.role = .editor length (.running s.timebase) → (∀ j < i, s.isEditor j = false) →
    ∃ t, exec .leaseExpiry s = .next t ∧
      t.contexts = s.contexts.set i.val (some { c with role := .reader }) i.isLt ∧
      t.store.phase = (if s.store.dirty then .refilling s.timebase else s.store.phase) ∧
      t.noticeSeq = s.noticeSeq + 1 ∧
      (s.active.devpol.target = none → t.service = s.service ∧ t.offers = s.offers ∧ t.counters = s.counters) ∧
      (∀ g, s.active.devpol.target = some g → s.serviceTakes g.line = true →
        t.counters = s.counters ∧ t.offers = s.offered g.line ∧
        t.service = s.service.set g.line (s.service.get g.line ++
          [{ frame := buildFrame g.station s.active.identity 0x12#8 64 0 (s.noticeSeq + 1)
               ([0x04#8, byteOf i.val, 0x00#8, 0x00#8] ++ bytes32 s.timebase ++ bytes32 s.store.generation)
             sort := .notice, builder := .noticeUnit, awaited := false }])) ∧
      (∀ g, s.active.devpol.target = some g → s.serviceTakes g.line = false →
        t.service = s.service ∧ t.offers = s.offers ∧ t.counters = s.counters.add (.line g.line .noticeLost) 1) ∧
      t = { s with
        contexts := t.contexts, store := { s.store with phase := t.store.phase }, noticeSeq := t.noticeSeq
        service := t.service, offers := t.offers, counters := t.counters }

/-! ## Tables and counters -/

/-- R172: an entry read and written back passes its checks and changes nothing. R23, Table 2-10: the write-time checks
of each table, and a written value replaces the entry exactly when it passes them. Table 11-6: the
encoding of each entry; bytes that name no value, set an unnamed bit or a reserved byte are refused. -/
def Obligations.EntryReadAndWrittenBackIsUnchanged : Prop :=
  (∀ (b : Bank) (t : TableId) (i : Nat), b.EntriesOk → i < t.entries →
     b.write t i (b.entryBytes t i) = some b) ∧
  (∀ e : StationEntry,
     (e.okIdentity = true ↔
       e = { id := e.id, matchField := .dest, verdict := .pass, cls := .cls 0, capture := false, manager := false,
             valid := true } ∧ e.id ≠ 0 ∧ e.id.msb = false) ∧
     (e.okListed = true ↔ (e.valid = true → e.id ≠ 0))) ∧
  (∀ r : RuleEntry, r.ok = true ↔
     20 ≤ r.minLength.toNat ∧ r.minLength.toNat ≤ 1028 ∧ r.anchor.toNat ≤ 63 ∧ 1 ≤ r.width.toNat ∧
       r.width.toNat ≤ 16 ∧ r.anchor.toNat + r.width.toNat ≤ 64 ∧ r.mask.length = r.width.toNat ∧
       r.value.length = r.width.toNat ∧
       (∀ i < r.width.toNat, ∀ j < 8, (r.value.getD i 0).getLsbD j = true → (r.mask.getD i 0).getLsbD j = true) ∧
       (r.action ≠ .passAs → r.cls = 0)) ∧
  (∀ e : ClassPol, e.ok = true ↔
     e.ks.toNat ≤ 32 ∧ e.kl.toNat ≤ 32 ∧ 1 ≤ e.ws.toNat ∧ e.ws.toNat ≤ 1000000 ∧ 1 ≤ e.wl.toNat ∧
       e.wl.toNat ≤ 1000000 ∧ 1 ≤ e.cellLimit.toNat ∧ e.cellLimit.toNat ≤ 1024 ∧ 1 ≤ e.residence.toNat ∧
       e.residence.toNat ≤ 1000000) ∧
  (∀ e : PortPol, e.ok = true ↔ ¬ (1 ≤ e.tc.toNat ∧ e.tc.toNat ≤ 49) ∧ 1 ≤ e.dmax.toNat ∧ e.dmax.toNat ≤ 8) ∧
  (∀ e : DevPol, e.ok = true ↔
     e.reserve.n.toNat ≤ 1024 ∧ e.reserve.s.toNat ≤ 1024 ∧ e.reserve.n.toNat + e.reserve.s.toNat ≤ 1024 ∧
       e.rA.toNat ≤ 31 ∧ e.rB.toNat ≤ 31 ∧ 10 ≤ e.defaultLease.toNat ∧ e.defaultLease.toNat ≤ 60000 ∧
       ∀ g, e.target = some g → g.station ≠ 0) ∧
  (∀ (b : Bank) (i : Nat),
     (∀ e : StationEntry, b.write .station i (encodeStation e) =
       if (if i = 0 then e.okIdentity else e.okListed) = true
       then some { b with station := b.station.setIfInBounds i e } else none) ∧
     (∀ r : RuleEntry, r.mask.length = r.width.toNat → b.write .rules i (encodeRule r) =
       if r.ok = true then some { b with rules := b.rules.setIfInBounds i r } else none) ∧
     (∀ e : ClassPol, b.write .classpol i (encodeClassPol e) =
       if e.ok = true then some { b with classpol := b.classpol.setIfInBounds i e } else none) ∧
     (∀ e : PortPol, b.write .portpol i (encodePortPol e) =
       if e.ok = true then some { b with portpol := b.portpol.set (if i = 0 then .n else .s) e } else none) ∧
     (∀ e : DevPol, b.write .devpol i (encodeDevPol e) =
       if e.ok = true then some { b with devpol := e } else none)) ∧
  (∀ e : StationEntry, encodeStation e = bytes32 e.id ++
     [match e.matchField with
       | .dest => 0x00#8
       | .src => 0x01#8
       | .either => 0x02#8, if e.verdict = .pass then 0x00#8 else 0x01#8,
      match e.cls with
       | .cls c => byteOf c.val
       | .flow => 0x0F#8,
      byteOf ((if e.valid then 1 else 0) + (if e.capture then 2 else 0) + (if e.manager then 4 else 0))]) ∧
  (∀ r : RuleEntry, encodeRule r =
     [if r.enabled then 0x01#8 else 0x00#8,
      match r.arrival with
       | .n => 0x01#8
       | .s => 0x02#8
       | .both => 0x03#8] ++ bytes16 r.minLength ++
     [r.anchor, r.width,
      match r.action with
       | .drop => 0x00#8
       | .passAs => 0x01#8
       | .captureContinue => 0x02#8, byteOf r.cls.val] ++ r.mask ++ r.value) ∧
  (∀ e : ClassPol, encodeClassPol e =
     [e.ks, e.kl] ++ bytes16 e.cellLimit ++ bytes32 e.ws ++ bytes32 e.wl ++ bytes32 e.residence) ∧
  (∀ e : PortPol, encodePortPol e =
     bytes16 e.tc ++ [e.dmax, if e.unmatched = .pass then 0x00#8 else 0x01#8]) ∧
  (∀ e : DevPol, encodeDevPol e =
     [if e.captureMode = .hold then 0x00#8 else 0x01#8, if e.admission = .any then 0x00#8 else 0x01#8, e.rA, e.rB] ++
       bytes16 e.reserve.n ++ bytes16 e.reserve.s ++
       (match e.target with
         | none => [0xFF#8, 0x00#8, 0x00#8, 0x00#8, 0x00#8]
         | some g => [if g.line = .n then 0x00#8 else 0x01#8] ++ bytes32 g.station) ++
       bytes16 e.defaultLease ++ [0x00#8]) ∧
  (∀ (b : Bank) (i : Nat),
     (∀ (id : StationId) (m v k f : Byte),
       2 < m.toNat ∨ 1 < v.toNat ∨ (7 < k.toNat ∧ k ≠ 0x0F#8) ∨ 7 < f.toNat →
       b.write .station i (bytes32 id ++ [m, v, k, f]) = none) ∧
     (∀ (f ar an w ac k : Byte) (least : Half) (rest : List Byte),
       1 < f.toNat ∨ ar = 0x00#8 ∨ 3 < ar.toNat ∨ 2 < ac.toNat ∨ 7 < k.toNat →
       b.write .rules i ([f, ar] ++ bytes16 least ++ [an, w, ac, k] ++ rest) = none) ∧
     (∀ (tc : Half) (dmax v : Byte), 1 < v.toNat → b.write .portpol i (bytes16 tc ++ [dmax, v]) = none) ∧
     (∀ (cm ad rA rB line z : Byte) (n s lease : Half) (station : StationId),
       1 < cm.toNat ∨ 1 < ad.toNat ∨ z ≠ 0x00#8 ∨ (1 < line.toNat ∧ line ≠ 0xFF#8) ∨
         (line = 0xFF#8 ∧ station ≠ 0) →
       b.write .devpol i ([cm, ad, rA, rB] ++ bytes16 n ++ bytes16 s ++ [line] ++ bytes32 station ++
         bytes16 lease ++ [z]) = none) ∧
     ∀ code t bs, TableId.ofCode code = some t → ¬ EntrySized code bs → b.write t i bs = none)

/-- R28: position k of the group map is bit k mod 32 of word k div 32, as it is written and as it is read, every word
is taken, and all positions are set at generation 0. -/
def Obligations.GroupMapPositionsAreWordBits : Prop :=
  ∀ (b : Bank) (i : Nat) (w : Word), i < 64 →
    (∃ b', b.write .groupmap i (bytes32 w) = some b' ∧ ∀ k : BitVec 11,
      b'.groupPosition k = if k.toNat / 32 = i then w.getLsbD (k.toNat % 32) else b.groupPosition k) ∧
    (∃ v : Word, b.entryBytes .groupmap i = bytes32 v ∧ ∀ k : BitVec 11, k.toNat / 32 = i →
      v.getLsbD (k.toNat % 32) = b.groupPosition k) ∧
    (∃ b', b.fill .groupmap (bytes32 w) = some b' ∧ ∀ k : BitVec 11,
      b'.groupPosition k = w.getLsbD (k.toNat % 32)) ∧
    ∀ (straps : BitVec 6) (k : BitVec 11), (Bank.generation0 straps).groupPosition k = true

/-- R31: a FLOWMAP write takes a class 0 to 7 and nothing else, generation 0 maps every label to class 0, and the upper
six bits of a flow field have no part in the lookup. -/
def Obligations.FlowMapHoldsClassOfLabel : Prop :=
  ∀ (b : Bank) (straps : BitVec 6) (i : Fin 1024) (k : Byte) (f : Fin 1024),
    (∀ h : k.toNat < 8,
      (∃ b', b.write .flowmap i.val [k] = some b' ∧
        b'.flowmap[f] = if f = i then ⟨k.toNat, h⟩ else b.flowmap[f]) ∧
      (∃ b', b.fill .flowmap [k] = some b' ∧ b'.flowmap[f] = ⟨k.toNat, h⟩)) ∧
    (8 ≤ k.toNat → b.write .flowmap i.val [k] = none ∧ b.fill .flowmap [k] = none) ∧
    (Bank.generation0 straps).flowmap[f] = 0 ∧
    ∀ bs : List Byte, (headerFacts bs).label.val = (halfAt bs 10).toNat % 1024

/-- R169: a counter adds its amount, saturates at its maximum, and leaves every other counter alone. R151, Table 10-6:
the received octets of a line and the launched octets of a class have 48 bits and read as 6 bytes, every other counter
has 32 bits and reads as 4; neither counting nor clearing changes a counter's width. -/
def Obligations.CountersSaturateAlone : Prop :=
  (∀ (b : Counters) (id id' : CounterId) (n : Nat),
     ((b.add id n).read id).toNat =
       min ((b.read id).toNat + n) (match b.read id with
         | .frame _ => 0xFFFFFFFF
         | .octet _ => 0xFFFFFFFFFFFF) ∧
     (id' ≠ id → (b.add id n).read id' = b.read id')) ∧
  (∀ id : CounterId, Counters.zero.read id =
     match id with
       | .arrival _ .octetsReceived => .octet 0
       | .egress _ _ .launchedOctets => .octet 0
       | _ => .frame 0) ∧
  (∀ (b : Counters) (id : CounterId) (n : Nat),
     (∀ w, b.read id = .octet w → ∃ v, (b.add id n).read id = .octet v) ∧
     (∀ w, b.read id = .frame w → ∃ v, (b.add id n).read id = .frame v)) ∧
  (∀ w : BitVec 48,
     (Counter.octet w).bytes = [40, 32, 24, 16, 8, 0].map (fun i => w.extractLsb' i 8) ∧
     (Counter.octet w).clear = .octet 0) ∧
  (∀ w : BitVec 32,
     (Counter.frame w).bytes = [24, 16, 8, 0].map (fun i => w.extractLsb' i 8) ∧
     (Counter.frame w).clear = .frame 0)

/-! ## What every step keeps -/

/-- R39 whole: the generation moves only at the flip of a COMMIT of DIRTY staging, by one, and where power-on or a FULL
reset takes effect, to 0, with the table store at its power-on condition, the timebase at 0 and no launch in progress
(R38, R160); and while it is 0 the active bank holds the generation-0 contents, which every step keeps. A COMMIT of
DIRTY staging that passes its commit-time checks does flip (R46 to R48), whatever else the state holds. -/
def Obligations.GenerationMovesOnlyAtFlipOrReset : Prop :=
  (∀ (c : Instr) (s t : State), exec c s = .next t →
     (t.store.generation = s.store.generation ∨
      ((∃ ops, c = .commit ops) ∧ s.store.dirty = true ∧ t.store.active = s.store.active.other ∧
        t.store.generation = if s.store.generation = 0xFFFFFFFF#32 then 1 else s.store.generation + 1) ∨
      (t.store.generation = 0 ∧ (c = .resetnAssert ∨ (∃ straps, c = .resetnRelease straps) ∨
        (∃ l, c = .launchCompletion l) ∨ c = .requestTake ∨ ∃ l, c = .symbolReceived l .invalid) ∧
        t.store = TableStore.powerOn t.straps ∧ t.timebase = 0 ∧ ∀ p, (t.tx.get p).launch = none)) ∧
     ((s.store.generation = 0 → s.active = Bank.generation0 s.straps) →
       t.store.generation = 0 → t.active = Bank.generation0 t.straps)) ∧
  (∀ (h : InHand) (s : State), s.Running h 0x13#8 [] → s.isEditor h.ctx = true → s.store.dirty = true →
     s.store.stagingBank.commitOk = true →
     ∃ t, exec (.commit []) s = .next t ∧ t.store.active = s.store.active.other ∧
       t.store.generation = (if s.store.generation = 0xFFFFFFFF#32 then 1 else s.store.generation + 1) ∧
       t.store.phase ≠ .steady ∧ t.agent = { s.agent with state := .commitWait })

/-- R77 with R8 to R12, R51 and R58: cells, delimiters, classifiers and adoption stay in step. -/
def Obligations.StepKeepsCellsConserved : Prop :=
  ∀ s t : State, s.FramesInv → step s = .next t → t.FramesInv

/-- R40: staging equals active in STEADY with CLEAN staging, in every state that a step reaches. -/
def Obligations.StepKeepsCleanStagingEqual : Prop :=
  ∀ s t : State, s.StoreInv → step s = .next t → t.StoreInv

/-- R130, R141, R145: one EDITOR at most, outside COMMIT_WAIT it finds the store STEADY, and with no EDITOR a STEADY
store is CLEAN. -/
def Obligations.StepKeepsSingleEditorInSteady : Prop :=
  ∀ s t : State, s.SessionInv → step s = .next t → t.SessionInv

/-- R23, R25: every entry of both banks goes on passing its checks; entry 0 stays a valid individual identity. -/
def Obligations.StepKeepsEntriesChecked : Prop :=
  ∀ s t : State, s.EntriesInv → step s = .next t → t.EntriesInv

/-- R116 to R120: the debt stays within 8, FORCED while it is at Dmax or above, and the timer runs exactly on an
UP line whose Tc is not 0. -/
def Obligations.StepKeepsCadenceLaws : Prop :=
  ∀ s t : State, s.EntriesInv → (∀ p, s.CadenceInv p) → step s = .next t → ∀ p, t.CadenceInv p

/-- R12, R95, R114, R115, R126, R164: the bounded stores stay in their bounds, and a line that is not UP sends no
frame. R161, R162: with the frames in step, each FILLING slot stays linked to the one frame that claimed it, and the
order of claims lists the slots in use. -/
def Obligations.StepKeepsStoresBounded : Prop :=
  ∀ s t : State, step s = .next t →
    (s.BoundsInv ∧ s.QuietInv → t.BoundsInv ∧ t.QuietInv) ∧ (s.FramesInv → s.CaptureInv → t.CaptureInv)

/-- R130, R131: the recency order and the keys of the contexts in use. -/
def Obligations.StepKeepsContextKeysDistinct : Prop :=
  ∀ s t : State, s.ContextsInv → step s = .next t → t.ContextsInv

/-- R82, R100, R102: the queues hold their own QUEUED frames, and each class has a head state exactly when its queue
has a head. -/
def Obligations.StepKeepsQueuesAndHeads : Prop :=
  ∀ s t : State, s.QueuesInv ∧ s.HeadsInv → step s = .next t → t.QueuesInv ∧ t.HeadsInv

/-- Every invariant holds of the power-on state, whatever the straps, and so of `State.reset`. -/
def Obligations.PowerOnSatisfiesInvariants : Prop :=
  ∀ straps : BitVec 6, let s := State.powerOn straps
    s.FramesInv ∧ s.StoreInv ∧ s.SessionInv ∧ s.EntriesInv ∧ (∀ p, s.CadenceInv p) ∧ s.BoundsInv ∧ s.QuietInv ∧
      s.CaptureInv ∧ s.ContextsInv ∧ s.QueuesInv ∧ s.HeadsInv
end

