-- ==== Sys2Proof/Laws/State.lean ====
section
/-! SUPPORT. What each update of the state leaves in each field, and what the accessors read after it. -/

namespace Sys2Proof

@[simp] theorem Line.opposite_opposite (l : Line) : l.opposite.opposite = l := by cases l <;> rfl

@[simp] theorem Line.opposite_ne (l : Line) : l.opposite ≠ l := by cases l <;> decide

@[simp] theorem Line.ne_opposite (l : Line) : l ≠ l.opposite := by cases l <;> decide

theorem Line.eq_or_opposite (l m : Line) : m = l ∨ m = l.opposite := by cases l <;> cases m <;> simp [Line.opposite]

namespace PerLine

variable {α : Type} (x : PerLine α) (l m : Line) (a b : α)

@[simp] theorem get_set_same : (x.set l a).get l = a := by cases l <;> rfl

@[simp] theorem get_set_opposite : (x.set l a).get l.opposite = x.get l.opposite := by cases l <;> rfl

@[simp] theorem get_opposite_set : (x.set l.opposite a).get l = x.get l := by cases l <;> rfl

theorem get_set_ne (h : m ≠ l) : (x.set l a).get m = x.get m := by cases l <;> cases m <;> first | rfl | exact absurd rfl h

theorem get_set : (x.set l a).get m = if m = l then a else x.get m := by
  cases l <;> cases m <;> rfl

@[simp] theorem set_set : (x.set l a).set l b = x.set l b := by cases l <;> rfl

@[simp] theorem set_get : x.set l (x.get l) = x := by cases l <;> rfl

theorem ext_get {y : PerLine α} (h : ∀ l, x.get l = y.get l) : x = y := by
  cases x; cases y
  have hn := h .n
  have hs := h .s
  simp only [get] at hn hs
  subst hn hs
  rfl

end PerLine

namespace Machine

variable (s : State)

section

variable (l : Line) (x : LinePort)

@[simp] theorem setPort_resetLow : (s.setPort l x).resetLow = s.resetLow := rfl
@[simp] theorem setPort_straps : (s.setPort l x).straps = s.straps := rfl
@[simp] theorem setPort_timebase : (s.setPort l x).timebase = s.timebase := rfl
@[simp] theorem setPort_port : (s.setPort l x).port = s.port.set l x := rfl
@[simp] theorem setPort_cls : (s.setPort l x).cls = s.cls := rfl
@[simp] theorem setPort_store : (s.setPort l x).store = s.store := rfl
@[simp] theorem setPort_pool : (s.setPort l x).pool = s.pool := rfl
@[simp] theorem setPort_queues : (s.setPort l x).queues = s.queues := rfl
@[simp] theorem setPort_pacer : (s.setPort l x).pacer = s.pacer := rfl
@[simp] theorem setPort_cadence : (s.setPort l x).cadence = s.cadence := rfl
@[simp] theorem setPort_service : (s.setPort l x).service = s.service := rfl
@[simp] theorem setPort_tx : (s.setPort l x).tx = s.tx := rfl
@[simp] theorem setPort_offers : (s.setPort l x).offers = s.offers := rfl
@[simp] theorem setPort_agent : (s.setPort l x).agent = s.agent := rfl
@[simp] theorem setPort_contexts : (s.setPort l x).contexts = s.contexts := rfl
@[simp] theorem setPort_recency : (s.setPort l x).recency = s.recency := rfl
@[simp] theorem setPort_capture : (s.setPort l x).capture = s.capture := rfl
@[simp] theorem setPort_noticeSeq : (s.setPort l x).noticeSeq = s.noticeSeq := rfl
@[simp] theorem setPort_counters : (s.setPort l x).counters = s.counters := rfl
@[simp] theorem setPort_choices : (s.setPort l x).choices = s.choices := rfl
@[simp] theorem setPort_pending : (s.setPort l x).pending = s.pending := rfl

end

section

variable (l : Line) (x : Reception)

@[simp] theorem setRx_resetLow : (s.setRx l x).resetLow = s.resetLow := rfl
@[simp] theorem setRx_straps : (s.setRx l x).straps = s.straps := rfl
@[simp] theorem setRx_timebase : (s.setRx l x).timebase = s.timebase := rfl
@[simp] theorem setRx_port : (s.setRx l x).port = s.port.set l { s.port.get l with rx := x } := rfl
@[simp] theorem setRx_cls : (s.setRx l x).cls = s.cls := rfl
@[simp] theorem setRx_store : (s.setRx l x).store = s.store := rfl
@[simp] theorem setRx_pool : (s.setRx l x).pool = s.pool := rfl
@[simp] theorem setRx_queues : (s.setRx l x).queues = s.queues := rfl
@[simp] theorem setRx_pacer : (s.setRx l x).pacer = s.pacer := rfl
@[simp] theorem setRx_cadence : (s.setRx l x).cadence = s.cadence := rfl
@[simp] theorem setRx_service : (s.setRx l x).service = s.service := rfl
@[simp] theorem setRx_tx : (s.setRx l x).tx = s.tx := rfl
@[simp] theorem setRx_offers : (s.setRx l x).offers = s.offers := rfl
@[simp] theorem setRx_agent : (s.setRx l x).agent = s.agent := rfl
@[simp] theorem setRx_contexts : (s.setRx l x).contexts = s.contexts := rfl
@[simp] theorem setRx_recency : (s.setRx l x).recency = s.recency := rfl
@[simp] theorem setRx_capture : (s.setRx l x).capture = s.capture := rfl
@[simp] theorem setRx_noticeSeq : (s.setRx l x).noticeSeq = s.noticeSeq := rfl
@[simp] theorem setRx_counters : (s.setRx l x).counters = s.counters := rfl
@[simp] theorem setRx_choices : (s.setRx l x).choices = s.choices := rfl
@[simp] theorem setRx_pending : (s.setRx l x).pending = s.pending := rfl

end

section

variable (l : Line) (x : Classifier)

@[simp] theorem setCls_resetLow : (s.setCls l x).resetLow = s.resetLow := rfl
@[simp] theorem setCls_straps : (s.setCls l x).straps = s.straps := rfl
@[simp] theorem setCls_timebase : (s.setCls l x).timebase = s.timebase := rfl
@[simp] theorem setCls_port : (s.setCls l x).port = s.port := rfl
@[simp] theorem setCls_cls : (s.setCls l x).cls = s.cls.set l x := rfl
@[simp] theorem setCls_store : (s.setCls l x).store = s.store := rfl
@[simp] theorem setCls_pool : (s.setCls l x).pool = s.pool := rfl
@[simp] theorem setCls_queues : (s.setCls l x).queues = s.queues := rfl
@[simp] theorem setCls_pacer : (s.setCls l x).pacer = s.pacer := rfl
@[simp] theorem setCls_cadence : (s.setCls l x).cadence = s.cadence := rfl
@[simp] theorem setCls_service : (s.setCls l x).service = s.service := rfl
@[simp] theorem setCls_tx : (s.setCls l x).tx = s.tx := rfl
@[simp] theorem setCls_offers : (s.setCls l x).offers = s.offers := rfl
@[simp] theorem setCls_agent : (s.setCls l x).agent = s.agent := rfl
@[simp] theorem setCls_contexts : (s.setCls l x).contexts = s.contexts := rfl
@[simp] theorem setCls_recency : (s.setCls l x).recency = s.recency := rfl
@[simp] theorem setCls_capture : (s.setCls l x).capture = s.capture := rfl
@[simp] theorem setCls_noticeSeq : (s.setCls l x).noticeSeq = s.noticeSeq := rfl
@[simp] theorem setCls_counters : (s.setCls l x).counters = s.counters := rfl
@[simp] theorem setCls_choices : (s.setCls l x).choices = s.choices := rfl
@[simp] theorem setCls_pending : (s.setCls l x).pending = s.pending := rfl

end

section

variable (p : Line) (c : TrafficClass) (x : List Descriptor)

@[simp] theorem setQueue_resetLow : (s.setQueue p c x).resetLow = s.resetLow := rfl
@[simp] theorem setQueue_straps : (s.setQueue p c x).straps = s.straps := rfl
@[simp] theorem setQueue_timebase : (s.setQueue p c x).timebase = s.timebase := rfl
@[simp] theorem setQueue_port : (s.setQueue p c x).port = s.port := rfl
@[simp] theorem setQueue_cls : (s.setQueue p c x).cls = s.cls := rfl
@[simp] theorem setQueue_store : (s.setQueue p c x).store = s.store := rfl
@[simp] theorem setQueue_pool : (s.setQueue p c x).pool = s.pool := rfl
@[simp] theorem setQueue_queues : (s.setQueue p c x).queues = s.queues.set p ((s.queues.get p).set c.val x c.isLt) := rfl
@[simp] theorem setQueue_pacer : (s.setQueue p c x).pacer = s.pacer := rfl
@[simp] theorem setQueue_cadence : (s.setQueue p c x).cadence = s.cadence := rfl
@[simp] theorem setQueue_service : (s.setQueue p c x).service = s.service := rfl
@[simp] theorem setQueue_tx : (s.setQueue p c x).tx = s.tx := rfl
@[simp] theorem setQueue_offers : (s.setQueue p c x).offers = s.offers := rfl
@[simp] theorem setQueue_agent : (s.setQueue p c x).agent = s.agent := rfl
@[simp] theorem setQueue_contexts : (s.setQueue p c x).contexts = s.contexts := rfl
@[simp] theorem setQueue_recency : (s.setQueue p c x).recency = s.recency := rfl
@[simp] theorem setQueue_capture : (s.setQueue p c x).capture = s.capture := rfl
@[simp] theorem setQueue_noticeSeq : (s.setQueue p c x).noticeSeq = s.noticeSeq := rfl
@[simp] theorem setQueue_counters : (s.setQueue p c x).counters = s.counters := rfl
@[simp] theorem setQueue_choices : (s.setQueue p c x).choices = s.choices := rfl
@[simp] theorem setQueue_pending : (s.setQueue p c x).pending = s.pending := rfl

end

section

variable (p : Line) (c : TrafficClass) (x : PacerLane)

@[simp] theorem setLane_resetLow : (s.setLane p c x).resetLow = s.resetLow := rfl
@[simp] theorem setLane_straps : (s.setLane p c x).straps = s.straps := rfl
@[simp] theorem setLane_timebase : (s.setLane p c x).timebase = s.timebase := rfl
@[simp] theorem setLane_port : (s.setLane p c x).port = s.port := rfl
@[simp] theorem setLane_cls : (s.setLane p c x).cls = s.cls := rfl
@[simp] theorem setLane_store : (s.setLane p c x).store = s.store := rfl
@[simp] theorem setLane_pool : (s.setLane p c x).pool = s.pool := rfl
@[simp] theorem setLane_queues : (s.setLane p c x).queues = s.queues := rfl
@[simp] theorem setLane_pacer : (s.setLane p c x).pacer = s.pacer.set p ((s.pacer.get p).set c.val x c.isLt) := rfl
@[simp] theorem setLane_cadence : (s.setLane p c x).cadence = s.cadence := rfl
@[simp] theorem setLane_service : (s.setLane p c x).service = s.service := rfl
@[simp] theorem setLane_tx : (s.setLane p c x).tx = s.tx := rfl
@[simp] theorem setLane_offers : (s.setLane p c x).offers = s.offers := rfl
@[simp] theorem setLane_agent : (s.setLane p c x).agent = s.agent := rfl
@[simp] theorem setLane_contexts : (s.setLane p c x).contexts = s.contexts := rfl
@[simp] theorem setLane_recency : (s.setLane p c x).recency = s.recency := rfl
@[simp] theorem setLane_capture : (s.setLane p c x).capture = s.capture := rfl
@[simp] theorem setLane_noticeSeq : (s.setLane p c x).noticeSeq = s.noticeSeq := rfl
@[simp] theorem setLane_counters : (s.setLane p c x).counters = s.counters := rfl
@[simp] theorem setLane_choices : (s.setLane p c x).choices = s.choices := rfl
@[simp] theorem setLane_pending : (s.setLane p c x).pending = s.pending := rfl

end

section

variable (p : Line) (x : Cadence)

@[simp] theorem setCadence_resetLow : (s.setCadence p x).resetLow = s.resetLow := rfl
@[simp] theorem setCadence_straps : (s.setCadence p x).straps = s.straps := rfl
@[simp] theorem setCadence_timebase : (s.setCadence p x).timebase = s.timebase := rfl
@[simp] theorem setCadence_port : (s.setCadence p x).port = s.port := rfl
@[simp] theorem setCadence_cls : (s.setCadence p x).cls = s.cls := rfl
@[simp] theorem setCadence_store : (s.setCadence p x).store = s.store := rfl
@[simp] theorem setCadence_pool : (s.setCadence p x).pool = s.pool := rfl
@[simp] theorem setCadence_queues : (s.setCadence p x).queues = s.queues := rfl
@[simp] theorem setCadence_pacer : (s.setCadence p x).pacer = s.pacer := rfl
@[simp] theorem setCadence_cadence : (s.setCadence p x).cadence = s.cadence.set p x := rfl
@[simp] theorem setCadence_service : (s.setCadence p x).service = s.service := rfl
@[simp] theorem setCadence_tx : (s.setCadence p x).tx = s.tx := rfl
@[simp] theorem setCadence_offers : (s.setCadence p x).offers = s.offers := rfl
@[simp] theorem setCadence_agent : (s.setCadence p x).agent = s.agent := rfl
@[simp] theorem setCadence_contexts : (s.setCadence p x).contexts = s.contexts := rfl
@[simp] theorem setCadence_recency : (s.setCadence p x).recency = s.recency := rfl
@[simp] theorem setCadence_capture : (s.setCadence p x).capture = s.capture := rfl
@[simp] theorem setCadence_noticeSeq : (s.setCadence p x).noticeSeq = s.noticeSeq := rfl
@[simp] theorem setCadence_counters : (s.setCadence p x).counters = s.counters := rfl
@[simp] theorem setCadence_choices : (s.setCadence p x).choices = s.choices := rfl
@[simp] theorem setCadence_pending : (s.setCadence p x).pending = s.pending := rfl

end

section

variable (p : Line) (x : List ServiceEntry)

@[simp] theorem setService_resetLow : (s.setService p x).resetLow = s.resetLow := rfl
@[simp] theorem setService_straps : (s.setService p x).straps = s.straps := rfl
@[simp] theorem setService_timebase : (s.setService p x).timebase = s.timebase := rfl
@[simp] theorem setService_port : (s.setService p x).port = s.port := rfl
@[simp] theorem setService_cls : (s.setService p x).cls = s.cls := rfl
@[simp] theorem setService_store : (s.setService p x).store = s.store := rfl
@[simp] theorem setService_pool : (s.setService p x).pool = s.pool := rfl
@[simp] theorem setService_queues : (s.setService p x).queues = s.queues := rfl
@[simp] theorem setService_pacer : (s.setService p x).pacer = s.pacer := rfl
@[simp] theorem setService_cadence : (s.setService p x).cadence = s.cadence := rfl
@[simp] theorem setService_service : (s.setService p x).service = s.service.set p x := rfl
@[simp] theorem setService_tx : (s.setService p x).tx = s.tx := rfl
@[simp] theorem setService_offers : (s.setService p x).offers = s.offers := rfl
@[simp] theorem setService_agent : (s.setService p x).agent = s.agent := rfl
@[simp] theorem setService_contexts : (s.setService p x).contexts = s.contexts := rfl
@[simp] theorem setService_recency : (s.setService p x).recency = s.recency := rfl
@[simp] theorem setService_capture : (s.setService p x).capture = s.capture := rfl
@[simp] theorem setService_noticeSeq : (s.setService p x).noticeSeq = s.noticeSeq := rfl
@[simp] theorem setService_counters : (s.setService p x).counters = s.counters := rfl
@[simp] theorem setService_choices : (s.setService p x).choices = s.choices := rfl
@[simp] theorem setService_pending : (s.setService p x).pending = s.pending := rfl

end

section

variable (p : Line) (x : Transmitter)

@[simp] theorem setTx_resetLow : (s.setTx p x).resetLow = s.resetLow := rfl
@[simp] theorem setTx_straps : (s.setTx p x).straps = s.straps := rfl
@[simp] theorem setTx_timebase : (s.setTx p x).timebase = s.timebase := rfl
@[simp] theorem setTx_port : (s.setTx p x).port = s.port := rfl
@[simp] theorem setTx_cls : (s.setTx p x).cls = s.cls := rfl
@[simp] theorem setTx_store : (s.setTx p x).store = s.store := rfl
@[simp] theorem setTx_pool : (s.setTx p x).pool = s.pool := rfl
@[simp] theorem setTx_queues : (s.setTx p x).queues = s.queues := rfl
@[simp] theorem setTx_pacer : (s.setTx p x).pacer = s.pacer := rfl
@[simp] theorem setTx_cadence : (s.setTx p x).cadence = s.cadence := rfl
@[simp] theorem setTx_service : (s.setTx p x).service = s.service := rfl
@[simp] theorem setTx_tx : (s.setTx p x).tx = s.tx.set p x := rfl
@[simp] theorem setTx_offers : (s.setTx p x).offers = s.offers := rfl
@[simp] theorem setTx_agent : (s.setTx p x).agent = s.agent := rfl
@[simp] theorem setTx_contexts : (s.setTx p x).contexts = s.contexts := rfl
@[simp] theorem setTx_recency : (s.setTx p x).recency = s.recency := rfl
@[simp] theorem setTx_capture : (s.setTx p x).capture = s.capture := rfl
@[simp] theorem setTx_noticeSeq : (s.setTx p x).noticeSeq = s.noticeSeq := rfl
@[simp] theorem setTx_counters : (s.setTx p x).counters = s.counters := rfl
@[simp] theorem setTx_choices : (s.setTx p x).choices = s.choices := rfl
@[simp] theorem setTx_pending : (s.setTx p x).pending = s.pending := rfl

end

section

variable (p : Line) (x : Nat)

@[simp] theorem setOffers_resetLow : (s.setOffers p x).resetLow = s.resetLow := rfl
@[simp] theorem setOffers_straps : (s.setOffers p x).straps = s.straps := rfl
@[simp] theorem setOffers_timebase : (s.setOffers p x).timebase = s.timebase := rfl
@[simp] theorem setOffers_port : (s.setOffers p x).port = s.port := rfl
@[simp] theorem setOffers_cls : (s.setOffers p x).cls = s.cls := rfl
@[simp] theorem setOffers_store : (s.setOffers p x).store = s.store := rfl
@[simp] theorem setOffers_pool : (s.setOffers p x).pool = s.pool := rfl
@[simp] theorem setOffers_queues : (s.setOffers p x).queues = s.queues := rfl
@[simp] theorem setOffers_pacer : (s.setOffers p x).pacer = s.pacer := rfl
@[simp] theorem setOffers_cadence : (s.setOffers p x).cadence = s.cadence := rfl
@[simp] theorem setOffers_service : (s.setOffers p x).service = s.service := rfl
@[simp] theorem setOffers_tx : (s.setOffers p x).tx = s.tx := rfl
@[simp] theorem setOffers_offers : (s.setOffers p x).offers = s.offers.set p x := rfl
@[simp] theorem setOffers_agent : (s.setOffers p x).agent = s.agent := rfl
@[simp] theorem setOffers_contexts : (s.setOffers p x).contexts = s.contexts := rfl
@[simp] theorem setOffers_recency : (s.setOffers p x).recency = s.recency := rfl
@[simp] theorem setOffers_capture : (s.setOffers p x).capture = s.capture := rfl
@[simp] theorem setOffers_noticeSeq : (s.setOffers p x).noticeSeq = s.noticeSeq := rfl
@[simp] theorem setOffers_counters : (s.setOffers p x).counters = s.counters := rfl
@[simp] theorem setOffers_choices : (s.setOffers p x).choices = s.choices := rfl
@[simp] theorem setOffers_pending : (s.setOffers p x).pending = s.pending := rfl

end

section

variable (x : Phase)

@[simp] theorem setPhase_resetLow : (s.setPhase x).resetLow = s.resetLow := rfl
@[simp] theorem setPhase_straps : (s.setPhase x).straps = s.straps := rfl
@[simp] theorem setPhase_timebase : (s.setPhase x).timebase = s.timebase := rfl
@[simp] theorem setPhase_port : (s.setPhase x).port = s.port := rfl
@[simp] theorem setPhase_cls : (s.setPhase x).cls = s.cls := rfl
@[simp] theorem setPhase_store : (s.setPhase x).store = { s.store with phase := x } := rfl
@[simp] theorem setPhase_pool : (s.setPhase x).pool = s.pool := rfl
@[simp] theorem setPhase_queues : (s.setPhase x).queues = s.queues := rfl
@[simp] theorem setPhase_pacer : (s.setPhase x).pacer = s.pacer := rfl
@[simp] theorem setPhase_cadence : (s.setPhase x).cadence = s.cadence := rfl
@[simp] theorem setPhase_service : (s.setPhase x).service = s.service := rfl
@[simp] theorem setPhase_tx : (s.setPhase x).tx = s.tx := rfl
@[simp] theorem setPhase_offers : (s.setPhase x).offers = s.offers := rfl
@[simp] theorem setPhase_agent : (s.setPhase x).agent = s.agent := rfl
@[simp] theorem setPhase_contexts : (s.setPhase x).contexts = s.contexts := rfl
@[simp] theorem setPhase_recency : (s.setPhase x).recency = s.recency := rfl
@[simp] theorem setPhase_capture : (s.setPhase x).capture = s.capture := rfl
@[simp] theorem setPhase_noticeSeq : (s.setPhase x).noticeSeq = s.noticeSeq := rfl
@[simp] theorem setPhase_counters : (s.setPhase x).counters = s.counters := rfl
@[simp] theorem setPhase_choices : (s.setPhase x).choices = s.choices := rfl
@[simp] theorem setPhase_pending : (s.setPhase x).pending = s.pending := rfl

end

section

variable (x : Agent)

@[simp] theorem setAgent_resetLow : (s.setAgent x).resetLow = s.resetLow := rfl
@[simp] theorem setAgent_straps : (s.setAgent x).straps = s.straps := rfl
@[simp] theorem setAgent_timebase : (s.setAgent x).timebase = s.timebase := rfl
@[simp] theorem setAgent_port : (s.setAgent x).port = s.port := rfl
@[simp] theorem setAgent_cls : (s.setAgent x).cls = s.cls := rfl
@[simp] theorem setAgent_store : (s.setAgent x).store = s.store := rfl
@[simp] theorem setAgent_pool : (s.setAgent x).pool = s.pool := rfl
@[simp] theorem setAgent_queues : (s.setAgent x).queues = s.queues := rfl
@[simp] theorem setAgent_pacer : (s.setAgent x).pacer = s.pacer := rfl
@[simp] theorem setAgent_cadence : (s.setAgent x).cadence = s.cadence := rfl
@[simp] theorem setAgent_service : (s.setAgent x).service = s.service := rfl
@[simp] theorem setAgent_tx : (s.setAgent x).tx = s.tx := rfl
@[simp] theorem setAgent_offers : (s.setAgent x).offers = s.offers := rfl
@[simp] theorem setAgent_agent : (s.setAgent x).agent = x := rfl
@[simp] theorem setAgent_contexts : (s.setAgent x).contexts = s.contexts := rfl
@[simp] theorem setAgent_recency : (s.setAgent x).recency = s.recency := rfl
@[simp] theorem setAgent_capture : (s.setAgent x).capture = s.capture := rfl
@[simp] theorem setAgent_noticeSeq : (s.setAgent x).noticeSeq = s.noticeSeq := rfl
@[simp] theorem setAgent_counters : (s.setAgent x).counters = s.counters := rfl
@[simp] theorem setAgent_choices : (s.setAgent x).choices = s.choices := rfl
@[simp] theorem setAgent_pending : (s.setAgent x).pending = s.pending := rfl

end

section

variable (i : Fin 4) (x : Option Context)

@[simp] theorem setContext_resetLow : (s.setContext i x).resetLow = s.resetLow := rfl
@[simp] theorem setContext_straps : (s.setContext i x).straps = s.straps := rfl
@[simp] theorem setContext_timebase : (s.setContext i x).timebase = s.timebase := rfl
@[simp] theorem setContext_port : (s.setContext i x).port = s.port := rfl
@[simp] theorem setContext_cls : (s.setContext i x).cls = s.cls := rfl
@[simp] theorem setContext_store : (s.setContext i x).store = s.store := rfl
@[simp] theorem setContext_pool : (s.setContext i x).pool = s.pool := rfl
@[simp] theorem setContext_queues : (s.setContext i x).queues = s.queues := rfl
@[simp] theorem setContext_pacer : (s.setContext i x).pacer = s.pacer := rfl
@[simp] theorem setContext_cadence : (s.setContext i x).cadence = s.cadence := rfl
@[simp] theorem setContext_service : (s.setContext i x).service = s.service := rfl
@[simp] theorem setContext_tx : (s.setContext i x).tx = s.tx := rfl
@[simp] theorem setContext_offers : (s.setContext i x).offers = s.offers := rfl
@[simp] theorem setContext_agent : (s.setContext i x).agent = s.agent := rfl
@[simp] theorem setContext_contexts : (s.setContext i x).contexts = s.contexts.set i.val x i.isLt := rfl
@[simp] theorem setContext_recency : (s.setContext i x).recency = s.recency := rfl
@[simp] theorem setContext_capture : (s.setContext i x).capture = s.capture := rfl
@[simp] theorem setContext_noticeSeq : (s.setContext i x).noticeSeq = s.noticeSeq := rfl
@[simp] theorem setContext_counters : (s.setContext i x).counters = s.counters := rfl
@[simp] theorem setContext_choices : (s.setContext i x).choices = s.choices := rfl
@[simp] theorem setContext_pending : (s.setContext i x).pending = s.pending := rfl

end

section

variable (x : CaptureStore)

@[simp] theorem setCapture_resetLow : (s.setCapture x).resetLow = s.resetLow := rfl
@[simp] theorem setCapture_straps : (s.setCapture x).straps = s.straps := rfl
@[simp] theorem setCapture_timebase : (s.setCapture x).timebase = s.timebase := rfl
@[simp] theorem setCapture_port : (s.setCapture x).port = s.port := rfl
@[simp] theorem setCapture_cls : (s.setCapture x).cls = s.cls := rfl
@[simp] theorem setCapture_store : (s.setCapture x).store = s.store := rfl
@[simp] theorem setCapture_pool : (s.setCapture x).pool = s.pool := rfl
@[simp] theorem setCapture_queues : (s.setCapture x).queues = s.queues := rfl
@[simp] theorem setCapture_pacer : (s.setCapture x).pacer = s.pacer := rfl
@[simp] theorem setCapture_cadence : (s.setCapture x).cadence = s.cadence := rfl
@[simp] theorem setCapture_service : (s.setCapture x).service = s.service := rfl
@[simp] theorem setCapture_tx : (s.setCapture x).tx = s.tx := rfl
@[simp] theorem setCapture_offers : (s.setCapture x).offers = s.offers := rfl
@[simp] theorem setCapture_agent : (s.setCapture x).agent = s.agent := rfl
@[simp] theorem setCapture_contexts : (s.setCapture x).contexts = s.contexts := rfl
@[simp] theorem setCapture_recency : (s.setCapture x).recency = s.recency := rfl
@[simp] theorem setCapture_capture : (s.setCapture x).capture = x := rfl
@[simp] theorem setCapture_noticeSeq : (s.setCapture x).noticeSeq = s.noticeSeq := rfl
@[simp] theorem setCapture_counters : (s.setCapture x).counters = s.counters := rfl
@[simp] theorem setCapture_choices : (s.setCapture x).choices = s.choices := rfl
@[simp] theorem setCapture_pending : (s.setCapture x).pending = s.pending := rfl

end

/-! ## The accessors after an update -/

section

variable (l p : Line) (c k : TrafficClass)

@[simp] theorem queue_setQueue_same (q : List Descriptor) : (s.setQueue p c q).queue p c = q := by
  simp [State.queue]

@[simp] theorem lane_setLane_same (x : PacerLane) : (s.setLane p c x).lane p c = x := by
  simp [State.lane]

theorem queue_setQueue_ne (q : List Descriptor) (h : (l, k) ≠ (p, c)) : (s.setQueue p c q).queue l k = s.queue l k := by
  by_cases hl : l = p
  · subst hl
    have hk : c.val ≠ k.val := fun e => h (by rw [Fin.ext e])
    simp [State.queue, Vector.getElem_set_ne _ _ hk]
  · simp [State.queue, PerLine.get_set_ne _ _ _ _ hl]

theorem lane_setLane_ne (x : PacerLane) (h : (l, k) ≠ (p, c)) : (s.setLane p c x).lane l k = s.lane l k := by
  by_cases hl : l = p
  · subst hl
    have hk : c.val ≠ k.val := fun e => h (by rw [Fin.ext e])
    simp [State.lane, Vector.getElem_set_ne _ _ hk]
  · simp [State.lane, PerLine.get_set_ne _ _ _ _ hl]

end

/-- A record of the same fields is the same state. -/
theorem State.ext_fields {s t : State} (h1 : s.resetLow = t.resetLow) (h2 : s.straps = t.straps)
    (h3 : s.timebase = t.timebase) (h4 : s.port = t.port) (h5 : s.cls = t.cls) (h6 : s.store = t.store)
    (h7 : s.pool = t.pool) (h8 : s.queues = t.queues) (h9 : s.pacer = t.pacer) (h10 : s.cadence = t.cadence)
    (h11 : s.service = t.service) (h12 : s.tx = t.tx) (h13 : s.offers = t.offers) (h14 : s.agent = t.agent)
    (h15 : s.contexts = t.contexts) (h16 : s.recency = t.recency) (h17 : s.capture = t.capture)
    (h18 : s.noticeSeq = t.noticeSeq) (h19 : s.counters = t.counters) (h20 : s.choices = t.choices)
    (h21 : s.pending = t.pending) : s = t := by
  cases s; cases t; simp_all

end Machine

end Sys2Proof
end

