-- ==== Sys2Proof/Laws/Ops.lean ====
section
/-! SUPPORT. What each shared operation can change, said once: the fields it may write, and nothing else; and the exact
effect of the small ones. -/

namespace Sys2Proof.Machine

variable (s : State)

/-! ## Counting, offers, service queues, notices -/

theorem count_eq (id : CounterId) (n : Nat) : count id n s = { s with counters := s.counters.add id n } := rfl

theorem offer_eq (p : Line) :
    offer p s = { s with
      offers := if s.isUp p && s.txFree p then s.offers.set p (s.offers.get p + 1) else s.offers } := by
  unfold offer
  split <;> rfl

theorem enqueue_taken (p : Line) (e : ServiceEntry) (h : s.serviceTakes p = true) :
    enqueue p e s = offer p (s.setService p (s.service.get p ++ [e])) := by
  simp [enqueue, h]

theorem enqueue_lost (p : Line) (e : ServiceEntry) (h : s.serviceTakes p = false) :
    enqueue p e s = count (lostCounter p e) 1 s := by
  simp [enqueue, h]

/-- An enqueue writes the service queues, the offers and the counters, nothing else. -/
theorem enqueue_shape (p : Line) (e : ServiceEntry) :
    ∃ sv of ct, enqueue p e s = { s with service := sv, offers := of, counters := ct } := by
  cases h : s.serviceTakes p
  · rw [enqueue_lost s p e h]
    exact ⟨_, _, _, rfl⟩
  · rw [enqueue_taken s p e h, offer_eq]
    exact ⟨_, _, _, rfl⟩

theorem enqueue_length (p q : Line) (e : ServiceEntry) (h : ∀ l, (s.service.get l).length ≤ 4) :
    ((enqueue p e s).service.get q).length ≤ 4 := by
  cases ht : s.serviceTakes p
  · rw [enqueue_lost s p e ht]
    exact h q
  · rw [enqueue_taken s p e ht, offer_eq]
    have hl : (s.service.get p).length < 4 := by
      have := ht
      simp only [State.serviceTakes, Bool.and_eq_true, decide_eq_true_eq] at this
      exact this.2
    show ((s.service.set p _).get q).length ≤ 4
    rw [PerLine.get_set]
    split
    · simp only [List.length_append, List.length_singleton]
      omega
    · exact h q

theorem notify_none (e : NoticeEvent) (t : Time) (h : s.active.devpol.target = none) :
    notify e t s = { s with noticeSeq := s.noticeSeq + 1 } := by
  unfold notify
  dsimp only
  split
  · rfl
  · rename_i g hg
    exact absurd (h.symm.trans hg) (by simp)

theorem notify_some (e : NoticeEvent) (t : Time) (g : NoticeTarget) (h : s.active.devpol.target = some g) :
    notify e t s =
      enqueue g.line
        { frame := noticeFrame e t g.station { s with noticeSeq := s.noticeSeq + 1 }, sort := .notice,
          builder := .noticeUnit, awaited := false }
        { s with noticeSeq := s.noticeSeq + 1 } := by
  unfold notify
  dsimp only
  split
  · rename_i hn
    exact absurd (h.symm.trans hn) (by simp)
  · rename_i g' hg
    have : g = g' := Option.some.inj (h.symm.trans hg)
    subst this
    rfl

/-- A notice event advances the sequence, and writes the service queues, the offers and the counters at most. -/
theorem notify_shape (e : NoticeEvent) (t : Time) :
    ∃ sv of ct, notify e t s =
      { s with noticeSeq := s.noticeSeq + 1, service := sv, offers := of, counters := ct } := by
  cases h : s.active.devpol.target with
  | none => exact ⟨_, _, _, notify_none s e t h⟩
  | some g =>
    rw [notify_some s e t g h]
    obtain ⟨sv, of, ct, hq⟩ := enqueue_shape { s with noticeSeq := s.noticeSeq + 1 } g.line
      { frame := noticeFrame e t g.station { s with noticeSeq := s.noticeSeq + 1 }, sort := .notice,
        builder := .noticeUnit, awaited := false }
    exact ⟨sv, of, ct, hq⟩

theorem noticeLost_add (b : Counters) (p q : Line) :
    (b.add (.line p .noticeLost) 1).read (.line q .noticeLost) =
      if q = p then (b.read (.line q .noticeLost)).add 1 else b.read (.line q .noticeLost) := by
  cases p <;> cases q <;>
    simp [Counters.add, Counters.read, bump, PerLine.get, PerLine.set]

/-- R167, R168, R114: what handing over a notice event does, in the words of the statements. -/
theorem notify_notifies (e : NoticeEvent) : s.Notifies (notify e s.timebase s) e.bytes := by
  cases h : s.active.devpol.target with
  | none =>
    rw [notify_none s e _ h]
    exact ⟨rfl, fun _ _ => ⟨rfl, rfl⟩, fun g hg => absurd (h.symm.trans hg) (by simp)⟩
  | some g =>
    rw [notify_some s e _ g h]
    generalize hx :
      ({ frame := noticeFrame e s.timebase g.station { s with noticeSeq := s.noticeSeq + 1 }
         sort := .notice, builder := .noticeUnit, awaited := false } : ServiceEntry) = x
    have lost : lostCounter g.line x = .line g.line .noticeLost := by rw [← hx]; rfl
    cases takes : s.serviceTakes g.line
    · rw [enqueue_lost { s with noticeSeq := s.noticeSeq + 1 } g.line x takes, lost]
      refine ⟨rfl, fun p hp => ⟨rfl, ?_⟩, fun g' hg => ?_⟩
      · exact (noticeLost_add _ _ _).trans (if_neg fun k => hp g h k.symm)
      · obtain rfl := Option.some.inj (h.symm.trans hg)
        exact ⟨fun k => absurd (takes.symm.trans k) (by simp), fun _ =>
          ⟨rfl, (noticeLost_add _ _ _).trans (if_pos rfl)⟩⟩
    · rw [enqueue_taken { s with noticeSeq := s.noticeSeq + 1 } g.line x takes, offer_eq]
      refine ⟨rfl, fun p hp => ⟨PerLine.get_set_ne _ _ _ _ fun k => hp g h k.symm, rfl⟩, fun g' hg => ?_⟩
      obtain rfl := Option.some.inj (h.symm.trans hg)
      have up : s.isUp g.line = true := by
        simp only [State.serviceTakes, Bool.and_eq_true] at takes
        exact takes.1
      refine ⟨fun _ => ⟨?_, rfl, fun free => ?_⟩, fun k => absurd (takes.symm.trans k) (by simp)⟩
      · rw [← hx]
        exact PerLine.get_set_same _ _ _
      · have c : (s.isUp g.line && s.txFree g.line) = true := by rw [up, free]; rfl
        show s.offers.get g.line < (if s.isUp g.line && s.txFree g.line
          then s.offers.set g.line (s.offers.get g.line + 1) else s.offers).get g.line
        rw [if_pos c, PerLine.get_set_same]
        exact Nat.lt_succ_self _

/-! ## Cells -/

theorem rearms_refl (p : Pool) : p.Rearms p :=
  ⟨Nat.le_refl _, id, .inl, fun h => absurd h (Nat.lt_irrefl _)⟩

theorem rearms_trans {p q r : Pool} (a : p.Rearms q) (b : q.Rearms r) : p.Rearms r := by
  obtain ⟨le, keep, arms, rises⟩ := a
  obtain ⟨le', keep', arms', rises'⟩ := b
  refine ⟨by omega, keep' ∘ keep, fun h => ?_, fun h k => ?_⟩
  · rcases arms' h with h | h
    · exact (arms h).imp_right (by omega)
    · exact .inr h
  · by_cases e : q.free < r.free
    · exact rises' e k
    · exact keep' (rises (by omega) (by omega))

theorem give_rearms (p : Pool) (e : Line) (k : Nat) : p.Rearms (p.give e k) := by
  refine ⟨by simp [Pool.give], fun h => ?_, fun h => ?_, fun _ h => ?_⟩ <;> simp_all [Pool.give]

theorem give_all_rearms (e : Line) (ds : List Descriptor) (p : Pool) :
    p.Rearms (ds.foldl (fun p d => p.give e d.cells) p) := by
  induction ds generalizing p with
  | nil => exact rearms_refl p
  | cons d ds ih => exact rearms_trans (give_rearms p e d.cells) (ih _)


theorem releaseCells_eq (e : Line) (k : Nat) : releaseCells e k s = { s with pool := s.pool.give e k } := rfl

theorem releaseAll_eq (e : Line) (ds : List Descriptor) :
    releaseAll e ds s = { s with pool := ds.foldl (fun p d => p.give e d.cells) s.pool } := by
  induction ds generalizing s with
  | nil => rfl
  | cons d ds ih =>
    show releaseAll e ds (releaseCells e d.cells s) = _
    rw [ih]
    rfl

theorem give_all_free (e : Line) (ds : List Descriptor) (p : Pool) :
    (ds.foldl (fun p d => p.give e d.cells) p).free = p.free + (ds.map (·.cells)).sum := by
  induction ds generalizing p with
  | nil => simp
  | cons d ds ih =>
    rw [List.foldl_cons, ih]
    simp [Pool.give]
    omega

theorem give_all_used (e : Line) (ds : List Descriptor) (p : Pool) :
    (ds.foldl (fun p d => p.give e d.cells) p).used = p.used.set e (p.used.get e - (ds.map (·.cells)).sum) := by
  induction ds generalizing p with
  | nil => simp
  | cons d ds ih =>
    rw [List.foldl_cons, ih]
    simp [Pool.give]
    congr 1
    omega

/-! ## The pacer and the queue heads -/

theorem recordHead_empty (p : Line) (c : TrafficClass) (b : Bool) (h : s.queue p c = []) :
    recordHead p c b s = s.setLane p c { s.lane p c with head := .none, release := none } := by
  simp [recordHead, h]

theorem recordHead_allowed (p : Line) (c : TrafficClass) (h : s.queue p c ≠ []) :
    recordHead p c true s = s.setLane p c { s.lane p c with head := .eligible, release := none } := by
  unfold recordHead
  cases hq : s.queue p c with
  | nil => exact absurd hq h
  | cons d r => rfl

theorem recordHead_held (p : Line) (c : TrafficClass) (h : s.queue p c ≠ []) :
    recordHead p c false s =
      { s.setLane p c
          { s.lane p c with
            head := .held, release := some (releaseTime s.timebase (s.lane p c).history (s.classPol p c)) } with
        counters := if (s.lane p c).head = .held then s.counters
          else s.counters.add (.egress p c .windowHolds) 1 } := by
  unfold recordHead
  cases hq : s.queue p c with
  | nil => exact absurd hq h
  | cons d r =>
    simp only [Bool.false_eq_true, ↓reduceIte]
    split <;> rfl

/-- A record of a head writes the pacers and the counters, nothing else. -/
theorem recordHead_shape (p : Line) (c : TrafficClass) (b : Bool) :
    ∃ pa ct, recordHead p c b s = { s with pacer := pa, counters := ct } := by
  by_cases h : s.queue p c = []
  · rw [recordHead_empty s p c b h]
    exact ⟨_, _, rfl⟩
  · cases b
    · rw [recordHead_held s p c h]
      exact ⟨_, _, rfl⟩
    · rw [recordHead_allowed s p c h]
      exact ⟨_, _, rfl⟩

/-- The head state, the release and the history that a record of a head leaves, and the lanes it leaves alone. -/
theorem recordHead_lane (p : Line) (c : TrafficClass) (b : Bool) :
    (recordHead p c b s).lane p c =
        { history := (s.lane p c).history
          head := if s.queue p c = [] then .none else if b then .eligible else .held
          release := if s.queue p c ≠ [] ∧ b = false
            then some (releaseTime s.timebase (s.lane p c).history (s.classPol p c)) else none } ∧
      ∀ q k, (q, k) ≠ (p, c) → (recordHead p c b s).lane q k = s.lane q k := by
  by_cases h : s.queue p c = []
  · rw [recordHead_empty s p c b h]
    exact ⟨by simp [h], fun q k hk => lane_setLane_ne s q p c k _ hk⟩
  · cases b
    · rw [recordHead_held s p c h]
      refine ⟨?_, fun q k hk => lane_setLane_ne s q p c k _ hk⟩
      show (s.setLane p c _).lane p c = _
      simp [h]
    · rw [recordHead_allowed s p c h]
      exact ⟨by simp [h], fun q k hk => lane_setLane_ne s q p c k _ hk⟩

theorem evaluate_eq (p : Line) (c : TrafficClass) : evaluate p c s = recordHead p c (s.Allows p c) s := rfl

/-- An evaluation leaves the lane as the statements say. -/
theorem evaluate_evaluated (p : Line) (c : TrafficClass) :
    (evaluate p c s).Evaluated p c ∧ ((evaluate p c s).lane p c).history = (s.lane p c).history ∧
      ∀ q k, (q, k) ≠ (p, c) → (evaluate p c s).lane q k = s.lane q k := by
  rw [evaluate_eq]
  obtain ⟨pa, ct, shape⟩ := recordHead_shape s p c (s.Allows p c)
  obtain ⟨lane, others⟩ := recordHead_lane s p c (s.Allows p c)
  refine ⟨?_, by rw [lane], others⟩
  generalize recordHead p c (s.Allows p c) s = t at *
  have queue : t.queue p c = s.queue p c := by rw [shape]; rfl
  have now : t.timebase = s.timebase := by rw [shape]
  have pol : t.classPol p c = s.classPol p c := by rw [shape]; rfl
  have allows : t.Allows p c = s.Allows p c := by
    unfold State.Allows
    rw [lane, now, pol]
  unfold State.Evaluated
  rw [allows, queue, now, pol, lane]
  exact ⟨rfl, rfl⟩

/-- R99: a head that a decision finds open passes the eligibility test. -/
theorem openAtDecision_allows (p : Line) (c : TrafficClass) (h : s.openAtDecision p c = true) :
    s.Allows p c = true := by
  have fewer : ∀ (now : Time) (hist : List Time) (k span : Nat),
      tierAllows now hist k (span + 1) = true → tierAllows now hist k span = true := by
    intro now hist k span h
    have le : younger now hist span ≤ younger now hist (span + 1) :=
      List.countP_mono_left (by simp only [decide_eq_true_eq]; omega)
    simp only [tierAllows, Bool.or_eq_true, decide_eq_true_eq] at h ⊢
    exact h.imp_right (by omega)
  simp only [State.openAtDecision] at h
  split at h
  · simp only [windowAllowsBefore, Bool.and_eq_true] at h
    simp only [State.Allows, windowAllows, Bool.and_eq_true]
    exact h.imp (fewer _ _ _ _) (fewer _ _ _ _)
  · exact h

/-- What a decision finds of a head, in the words of the statements. -/
theorem openAtDecision_eq (p : Line) (c : TrafficClass) : s.openAtDecision p c = s.AllowsDecision p c := by
  have zero : ∀ k : Byte, (k == 0) = (k.toNat == 0) := by decide +kernel
  unfold State.openAtDecision State.AllowsDecision State.Allows
  simp only [windowAllowsBefore, tierAllows, younger, zero, Nat.lt_succ_iff]

theorem evaluateOffer_eq (p : Line) (c : TrafficClass) :
    evaluateOffer p c s =
      if ((evaluate p c s).lane p c).head = .eligible then offer p (evaluate p c s) else evaluate p c s := rfl

/-- An evaluation with its offer writes the pacers, the offers and the counters, nothing else. -/
theorem evaluateOffer_shape (p : Line) (c : TrafficClass) :
    ∃ pa of ct, evaluateOffer p c s = { s with pacer := pa, offers := of, counters := ct } := by
  rw [evaluateOffer_eq, evaluate_eq]
  obtain ⟨pa, ct, h⟩ := recordHead_shape s p c (s.Allows p c)
  rw [h]
  split
  · rw [offer_eq]
    exact ⟨_, _, _, rfl⟩
  · exact ⟨_, _, _, rfl⟩

theorem evaluateOffer_pacer (p : Line) (c : TrafficClass) :
    (evaluateOffer p c s).pacer = (evaluate p c s).pacer := by
  rw [evaluateOffer_eq]
  split
  · rw [offer_eq]
  · rfl

theorem evaluateOffer_lane (p : Line) (c : TrafficClass) (q : Line) (k : TrafficClass) :
    (evaluateOffer p c s).lane q k = (evaluate p c s).lane q k := by
  simp only [State.lane, evaluateOffer_pacer]

theorem expireHeads_eq (p : Line) (c : TrafficClass) :
    expireHeads p c s =
      { s.setQueue p c ((s.queue p c).dropWhile (overdue s.timebase (s.classPol p c).residence)) with
        pool := ((s.queue p c).takeWhile (overdue s.timebase (s.classPol p c).residence)).foldl
          (fun x d => x.give p d.cells) s.pool
        counters := s.counters.add (.egress p c .residence)
          ((s.queue p c).takeWhile (overdue s.timebase (s.classPol p c).residence)).length } := by
  unfold expireHeads
  simp only [releaseAll_eq, count_eq]
  rfl

/-- A new head writes the queues, the pool, the pacers, the offers and the counters, nothing else. -/
theorem newHead_shape (p : Line) (c : TrafficClass) :
    ∃ qs po pa of ct, newHead p c s =
      { s with queues := qs, pool := po, pacer := pa, offers := of, counters := ct } := by
  unfold newHead
  rw [expireHeads_eq]
  obtain ⟨pa, of, ct, h⟩ := evaluateOffer_shape
    (({ s.setQueue p c ((s.queue p c).dropWhile (overdue s.timebase (s.classPol p c).residence)) with
        pool := ((s.queue p c).takeWhile (overdue s.timebase (s.classPol p c).residence)).foldl
          (fun x d => x.give p d.cells) s.pool
        counters := s.counters.add (.egress p c .residence)
          ((s.queue p c).takeWhile (overdue s.timebase (s.classPol p c).residence)).length } : State).setLane p c
      { s.lane p c with head := .none, release := none }) p c
  exact ⟨_, _, pa, of, ct, h⟩

theorem checkHead_shape (p : Line) (c : TrafficClass) :
    ∃ qs po pa of ct, checkHead p c s =
      { s with queues := qs, pool := po, pacer := pa, offers := of, counters := ct } := by
  unfold checkHead
  split
  · split
    · exact newHead_shape s p c
    · exact ⟨_, _, _, _, _, rfl⟩
  · exact ⟨_, _, _, _, _, rfl⟩

/-! ## The table store -/

theorem startCopy_eq : startCopy s = { s with store := { s.store with phase := .refilling s.timebase } } := rfl

theorem leaveClassification_shape (l : Line) :
    ∃ ph, leaveClassification l s = { s with store := { s.store with phase := ph } } := by
  unfold leaveClassification
  split
  · dsimp only
    split
    · exact ⟨_, rfl⟩
    · exact ⟨_, rfl⟩
  · exact ⟨_, rfl⟩
  · exact ⟨_, rfl⟩

/-- R51: the end of a classification moves the phase and nothing else. -/
theorem leaveClassification_eq (l : Line) : leaveClassification l s = s.setPhase (s.phaseLeaving l) := by
  unfold leaveClassification State.phaseLeaving startCopy
  rcases h : s.store.phase with _ | m | begun
  · simp only [State.setPhase, ← h]
  · cases l <;> cases m <;> simp only [PerLine.set, PerLine.get, Line.opposite, Bool.true_and, Bool.and_true] <;>
      split <;> simp_all [State.setPhase]
  · simp only [State.setPhase, ← h]

theorem leaveClassification_steady (l : Line) (h : ∀ m, s.store.phase ≠ .adopting m) :
    leaveClassification l s = s := by
  unfold leaveClassification
  cases hp : s.store.phase with
  | adopting m => exact absurd hp (h m)
  | steady => rfl
  | refilling _ => rfl

/-! ## The cadence units -/

theorem forcedTest_shape (p : Line) :
    ∃ ca sv of ct ns, forcedTest p s =
      { s with cadence := ca, service := sv, offers := of, counters := ct, noticeSeq := ns } := by
  unfold forcedTest
  dsimp only
  split
  · obtain ⟨sv, of, ct, h⟩ := notify_shape
      (count (.line p .forcedEntries) 1 (s.setCadence p { s.cadence.get p with forced := true }))
      (.cadenceForced p (s.cadence.get p).owed.length) s.timebase
    exact ⟨_, sv, of, ct, _, h⟩
  · exact ⟨_, _, _, _, _, rfl⟩

/-- What the FORCED test leaves in the cadence units. -/
theorem forcedTest_cadence (p : Line) :
    (forcedTest p s).cadence = s.cadence.set p
      { s.cadence.get p with
        forced := (s.cadence.get p).forced ||
          decide ((s.portPol p).dmax.toNat ≤ (s.cadence.get p).owed.length) } := by
  unfold forcedTest
  dsimp only
  split
  · rename_i h
    obtain ⟨sv, of, ct, hn⟩ := notify_shape
      (count (.line p .forcedEntries) 1 (s.setCadence p { s.cadence.get p with forced := true }))
      (.cadenceForced p (s.cadence.get p).owed.length) s.timebase
    simp only [Bool.and_eq_true, Bool.not_eq_true', decide_eq_true_eq] at h
    rw [hn]
    simp [count_eq, h.1, h.2]
  · rename_i h
    simp only [Bool.and_eq_true, Bool.not_eq_true', decide_eq_true_eq, not_and] at h
    apply PerLine.ext_get
    intro l
    rw [PerLine.get_set]
    split
    · rename_i hl
      subst hl
      have e : ((s.cadence.get l).forced ||
          decide ((s.portPol l).dmax.toNat ≤ (s.cadence.get l).owed.length)) = (s.cadence.get l).forced := by
        cases hf : (s.cadence.get l).forced
        · simpa using h hf
        · rfl
      rw [e]
    · rfl

theorem startTimer_eq (p : Line) :
    startTimer p s = s.setCadence p
      { s.cadence.get p with
        timer := if s.isUp p && (s.portPol p).tc != 0
          then .running (s.timebase + (s.portPol p).tc.setWidth 32) else .stopped } := rfl

/-! ## Commands of a request -/

theorem awake_eq (f : State → State) (h : s.resetLow = false) : awake f s = f s := by
  simp [awake, h]

theorem awake_low (f : State → State) (h : s.resetLow = true) : awake f s = s := by
  simp [awake, h]

theorem finishCommand_eq (h : InHand) (st : Status) (d : List Byte) :
    finishCommand h st d s = { s with agent := { s.agent with hand := .request (h.finish st d) } } := rfl

theorem runCommand_running {h : InHand} {code : Byte} {ops : List Byte} (f : InHand → State → State)
    (r : s.Running h code ops) : runCommand code ops f s = f h s := by
  obtain ⟨_, h2, h3, h4⟩ := r
  simp [runCommand, h2, h3, h4]

/-- A command of a running request is its own meaning, applied to the request in hand. -/
theorem awake_runCommand {h : InHand} {code : Byte} {ops : List Byte} (f : InHand → State → State)
    (r : s.Running h code ops) : awake (runCommand code ops f) s = f h s := by
  rw [awake_eq s _ r.1, runCommand_running s f r]

/-- A command does nothing, or what its meaning does to the request in hand. -/
theorem runCommand_cases (code : Byte) (ops : List Byte) (f : InHand → State → State) :
    runCommand code ops f s = s ∨
      ∃ h, s.agent.state = .executing ∧ s.agent.hand = .request h ∧
        h.toRun.head? = some { code := code, ops := ops } ∧ runCommand code ops f s = f h s := by
  unfold runCommand
  split
  · rename_i h h1 h2
    split
    · rename_i h3
      exact .inr ⟨h, h1, h2, h3, rfl⟩
    · exact .inl rfl
  · exact .inl rfl

end Sys2Proof.Machine
end

