-- ==== Sys2Proof/Laws/Blocks.lean ====
section
/-! SUPPORT. The reach of each block's operations: what the egress side of a line, the classifier of a line and the
management agent may change, with one lemma for each operation, and which operation a received symbol is. -/

namespace Sys2Proof.Machine

/-! ## The egress side of a line -/

/-- From `s` to `t` the egress side of line `p` has acted: outside it only the pool, the service queues, the offers, the
counters and the notice sequence may differ. -/
structure EgressReach (p : Line) (s t : State) : Prop where
  resetLow : t.resetLow = s.resetLow
  straps : t.straps = s.straps
  timebase : t.timebase = s.timebase
  port : t.port = s.port
  cls : t.cls = s.cls
  store : t.store = s.store
  agent : t.agent = s.agent
  contexts : t.contexts = s.contexts
  recency : t.recency = s.recency
  capture : t.capture = s.capture
  choices : t.choices = s.choices
  pending : t.pending = s.pending
  queues : t.queues.get p.opposite = s.queues.get p.opposite
  pacer : t.pacer.get p.opposite = s.pacer.get p.opposite
  cadence : t.cadence.get p.opposite = s.cadence.get p.opposite
  tx : t.tx.get p.opposite = s.tx.get p.opposite

namespace EgressReach

variable {p : Line} {s t u : State}

theorem refl (p : Line) (s : State) : EgressReach p s s := by constructor <;> rfl

theorem trans (h : EgressReach p s t) (k : EgressReach p t u) : EgressReach p s u where
  resetLow := k.resetLow.trans h.resetLow
  straps := k.straps.trans h.straps
  timebase := k.timebase.trans h.timebase
  port := k.port.trans h.port
  cls := k.cls.trans h.cls
  store := k.store.trans h.store
  agent := k.agent.trans h.agent
  contexts := k.contexts.trans h.contexts
  recency := k.recency.trans h.recency
  capture := k.capture.trans h.capture
  choices := k.choices.trans h.choices
  pending := k.pending.trans h.pending
  queues := k.queues.trans h.queues
  pacer := k.pacer.trans h.pacer
  cadence := k.cadence.trans h.cadence
  tx := k.tx.trans h.tx

/-- The fields an egress side may write, and no other. -/
theorem rest (h : EgressReach p s t) :
    t = { s with
      pool := t.pool, queues := t.queues, pacer := t.pacer, cadence := t.cadence, service := t.service, tx := t.tx
      offers := t.offers, noticeSeq := t.noticeSeq, counters := t.counters } := by
  obtain ⟨h1, h2, h3, h4, h5, h6, h7, h8, h9, h10, h11, h12, -, -, -, -⟩ := h
  cases s
  cases t
  simp_all

theorem isUp (h : EgressReach p s t) (q : Line) : t.isUp q = s.isUp q := by
  simp only [State.isUp, h.port]

theorem active (h : EgressReach p s t) : t.active = s.active := by
  simp only [State.active, h.store]

/-- A fold of operations within reach is within reach. -/
theorem fold {α : Type} (f : State → α → State) (h : ∀ (s : State) (a : α), EgressReach p s (f s a)) (as : List α) :
    ∀ s : State, EgressReach p s (as.foldl f s) := by
  induction as with
  | nil => exact refl p
  | cons a as ih => exact fun s => (h s a).trans (ih _)

end EgressReach

variable (s : State) (p : Line)

theorem count_reach (id : CounterId) (n : Nat) : EgressReach p s (count id n s) := by constructor <;> rfl

theorem offer_reach (q : Line) : EgressReach p s (offer q s) := by
  rw [offer_eq]
  constructor <;> rfl

theorem enqueue_reach (q : Line) (e : ServiceEntry) : EgressReach p s (enqueue q e s) := by
  obtain ⟨_, _, _, h⟩ := enqueue_shape s q e
  rw [h]
  constructor <;> rfl

theorem notify_reach (e : NoticeEvent) (t : Time) : EgressReach p s (notify e t s) := by
  obtain ⟨_, _, _, h⟩ := notify_shape s e t
  rw [h]
  constructor <;> rfl

theorem releaseCells_reach (e : Line) (k : Nat) : EgressReach p s (releaseCells e k s) := by constructor <;> rfl

theorem releaseAll_reach (e : Line) (ds : List Descriptor) : EgressReach p s (releaseAll e ds s) := by
  rw [releaseAll_eq]
  constructor <;> rfl

theorem setQueue_reach (c : TrafficClass) (q : List Descriptor) : EgressReach p s (s.setQueue p c q) := by
  constructor <;> simp [State.setQueue]

theorem setLane_reach (c : TrafficClass) (x : PacerLane) : EgressReach p s (s.setLane p c x) := by
  constructor <;> simp [State.setLane]

theorem setCadence_reach (u : Cadence) : EgressReach p s (s.setCadence p u) := by
  constructor <;> simp [State.setCadence]

theorem setTx_reach (x : Transmitter) : EgressReach p s (s.setTx p x) := by
  constructor <;> simp [State.setTx]

theorem setService_reach (q : Line) (x : List ServiceEntry) : EgressReach p s (s.setService q x) := by
  constructor <;> rfl

theorem setOffers_reach (q : Line) (n : Nat) : EgressReach p s (s.setOffers q n) := by constructor <;> rfl

theorem recordHead_reach (c : TrafficClass) (b : Bool) : EgressReach p s (recordHead p c b s) := by
  by_cases h : s.queue p c = []
  · rw [recordHead_empty s p c b h]
    exact setLane_reach s p c _
  · cases b
    · rw [recordHead_held s p c h]
      exact (setLane_reach s p c _).trans (by constructor <;> rfl)
    · rw [recordHead_allowed s p c h]
      exact setLane_reach s p c _

theorem evaluate_reach (c : TrafficClass) : EgressReach p s (evaluate p c s) := recordHead_reach s p c _

theorem evaluateAtDecision_reach (c : TrafficClass) : EgressReach p s (evaluateAtDecision p c s) :=
  recordHead_reach s p c _

theorem evaluateOffer_reach (c : TrafficClass) : EgressReach p s (evaluateOffer p c s) := by
  rw [evaluateOffer_eq]
  split
  · exact (evaluate_reach s p c).trans (offer_reach _ p p)
  · exact evaluate_reach s p c

theorem expireHeads_reach (c : TrafficClass) : EgressReach p s (expireHeads p c s) :=
  ((setQueue_reach s p c _).trans (releaseAll_reach _ p p _)).trans (count_reach _ p _ _)

theorem newHead_reach (c : TrafficClass) : EgressReach p s (newHead p c s) :=
  ((expireHeads_reach s p c).trans (setLane_reach _ p c _)).trans (evaluateOffer_reach _ p c)

theorem checkHead_reach (c : TrafficClass) : EgressReach p s (checkHead p c s) := by
  unfold checkHead
  split
  · split
    · exact newHead_reach s p c
    · exact .refl p s
  · exact .refl p s

/-! ## The cadence unit -/

theorem forcedTest_reach : EgressReach p s (forcedTest p s) := by
  unfold forcedTest
  dsimp only
  split
  · exact ((setCadence_reach s p _).trans (count_reach _ p _ _)).trans (notify_reach _ p _ _)
  · exact .refl p s

theorem startTimer_reach : EgressReach p s (startTimer p s) := setCadence_reach s p _

theorem cadenceExpire_reach (due : Time) : EgressReach p s (cadenceExpire p due s) := by
  unfold cadenceExpire
  dsimp only
  refine EgressReach.trans ?_ (offer_reach _ p p)
  split
  · exact (setCadence_reach s p _).trans (forcedTest_reach _ p)
  · exact ((setCadence_reach s p _).trans (count_reach _ p _ _)).trans (notify_reach _ p _ _)

theorem cadenceFlip_reach (old : PortPol) : EgressReach p s (cadenceFlip p old s) := by
  unfold cadenceFlip
  refine EgressReach.trans ?_ (forcedTest_reach _ p)
  split
  · exact .refl p s
  · exact startTimer_reach s p

theorem cadenceTraffic_reach : EgressReach p s (cadenceTraffic p s) :=
  (setCadence_reach s p _).trans (startTimer_reach _ p)

/-! ## Launches -/

theorem startLaunch_reach (bytes : List Byte) (x : LaunchSource) : EgressReach p s (startLaunch p bytes x s) :=
  setTx_reach s p _

theorem launchCadence_reach (t : Time) (rest : List Time) : EgressReach p s (launchCadence p t rest s) :=
  (setCadence_reach s p _).trans (startLaunch_reach _ p _ _)

theorem launchService_reach (e : ServiceEntry) (rest : List ServiceEntry) :
    EgressReach p s (launchService p e rest s) :=
  (setService_reach s p p rest).trans (startLaunch_reach _ p _ _)

theorem launchHead_reach (c : TrafficClass) (d : Descriptor) (rest : List Descriptor) :
    EgressReach p s (launchHead p c d rest s) :=
  (((setQueue_reach s p c rest).trans (setLane_reach _ p c _)).trans (startLaunch_reach _ p _ _)).trans
    (newHead_reach _ p c)

theorem scanHeads_reach (cs : List TrafficClass) : ∀ s : State, EgressReach p s (scanHeads p cs s) := by
  induction cs with
  | nil =>
    intro s
    unfold scanHeads
    split
    · exact launchCadence_reach s p _ _
    · exact .refl p s
  | cons c cs ih =>
    intro s
    unfold scanHeads
    split
    · exact ih s
    · dsimp only
      split
      · exact (evaluateAtDecision_reach s p c).trans (launchHead_reach _ p c _ _)
      · exact (evaluateAtDecision_reach s p c).trans (ih _)

theorem arbitrate_reach : EgressReach p s (arbitrate p s) := by
  unfold arbitrate
  split
  · exact launchCadence_reach s p _ _
  · split
    · exact launchService_reach s p _ _
    · exact scanHeads_reach p _ s

theorem decideOffer_reach : EgressReach p s (decideOffer p s) :=
  (arbitrate_reach s p).trans (setOffers_reach _ p p _)

theorem decideNow_reach : EgressReach p s (decideNow p s) := by
  unfold decideNow
  dsimp only
  split
  · split
    · exact arbitrate_reach s p
    · exact (arbitrate_reach s p).trans (setOffers_reach _ p p _)
  · exact .refl p s

theorem account_reach (x : LaunchSource) : EgressReach p s (account p x s) := by
  cases x with
  | passed d => exact ((releaseCells_reach s p p _).trans (count_reach _ p _ _)).trans (count_reach _ p _ _)
  | service e => exact count_reach s p _ _
  | cadence => exact count_reach s p _ _

/-- A completed launch that carries no FULL reset. -/
theorem completeLaunch_reach (x : Launch) (h : x.source.awaited = false) : EgressReach p s (completeLaunch p x s) := by
  unfold completeLaunch
  simp only [h, Bool.false_eq_true, if_false]
  exact ((setTx_reach s p _).trans (account_reach _ p _)).trans (offer_reach _ p p)

/-! ## Line down, line up, flip, TRAFFIC reset -/

theorem flushClass_reach (c : TrafficClass) : EgressReach p s (flushClass p s c) :=
  (((setQueue_reach s p c []).trans (releaseAll_reach _ p p _)).trans (count_reach _ p _ _)).trans
    (setLane_reach _ p c _)

theorem flushLine_reach : EgressReach p s (flushLine p s) := .fold _ (fun s c => flushClass_reach s p c) _ s

theorem abortLaunch_reach : EgressReach p s (abortLaunch p s) := by
  unfold abortLaunch
  dsimp only
  split
  · exact .refl p s
  · split
    · exact ((setTx_reach s p _).trans (releaseCells_reach _ p p _)).trans (count_reach _ p _ _)
    · exact setTx_reach s p _
    · exact setTx_reach s p _

theorem emptyService_reach : EgressReach p s (emptyService p s) :=
  (setService_reach s p p []).trans (.fold _ (fun s _ => count_reach s p _ _) _ _)

theorem egressDown_reach : EgressReach p s (egressDown p s) :=
  ((((abortLaunch_reach s p).trans (flushLine_reach _ p)).trans (emptyService_reach _ p)).trans
    (setCadence_reach _ p _)).trans (setOffers_reach _ p p 0)

theorem egressUp_reach : EgressReach p s (egressUp p s) :=
  ((EgressReach.fold _ (fun s c => evaluateOffer_reach s p c) _ s).trans (startTimer_reach _ p)).trans
    (offer_reach _ p p)

theorem clearEgress_reach : EgressReach p s (clearEgress p s) :=
  (flushLine_reach s p).trans (cadenceTraffic_reach _ p)

/-! ## The flip -/

/-- The line whose block acts. -/
def FlipAct.line : FlipAct → Line
  | .queue p _ => p
  | .head p _ => p
  | .cadence p => p
  | .arbiter p => p

/-- One act of a flip is an act of the egress side of its own line. -/
theorem flipAct_reach (s0 : State) (rest : List FlipAct) (a : FlipAct) :
    EgressReach a.line s (flipAct s0 rest a s) := by
  cases a with
  | queue p c => exact checkHead_reach s p c
  | head p c => exact evaluateOffer_reach s p c
  | cadence p => exact cadenceFlip_reach s p _
  | arbiter p =>
    simp only [flipAct, FlipAct.line]
    split
    · exact offer_reach s p p
    · exact decideNow_reach s p

/-- The acts of a flip write the egress sides of the lines, and no other field. -/
theorem flipActs_rest (s0 : State) (as : List FlipAct) : ∀ s : State,
    flipActs s0 as s = { s with
      pool := (flipActs s0 as s).pool, queues := (flipActs s0 as s).queues, pacer := (flipActs s0 as s).pacer
      cadence := (flipActs s0 as s).cadence, service := (flipActs s0 as s).service, tx := (flipActs s0 as s).tx
      offers := (flipActs s0 as s).offers, noticeSeq := (flipActs s0 as s).noticeSeq
      counters := (flipActs s0 as s).counters } := by
  induction as with
  | nil => exact fun _ => rfl
  | cons a as ih =>
    intro s
    have h := (flipAct_reach s s0 as a).rest
    have k := ih (flipAct s0 as a s)
    simp only [flipActs]
    rw [k]
    rw [h]

/-- What every act keeps, the whole flip keeps. -/
theorem flipActs_keeps (inv : State → Prop) (s0 : State)
    (h : ∀ (rest : List FlipAct) (a : FlipAct) (s : State), inv s → inv (flipAct s0 rest a s)) (as : List FlipAct) :
    ∀ s : State, inv s → inv (flipActs s0 as s) := by
  induction as with
  | nil => exact fun _ k => k
  | cons a as ih => exact fun s k => ih _ (h as a s k)

/-- Every act of either line is among the acts of a flip, and once. -/
theorem mem_flipAll (a : FlipAct) : a ∈ flipAll := by
  cases a with
  | queue p c => revert c; cases p <;> decide
  | head p c => revert c; cases p <;> decide
  | cadence p => cases p <;> decide
  | arbiter p => cases p <;> decide

theorem flipAll_nodup : flipAll.Nodup := by decide

theorem placeAct_perm (k : Nat) (a : FlipAct) (as : List FlipAct) : (placeAct k a as).Perm (a :: as) := by
  have h := List.perm_middle (a := a) (l₁ := as.take k) (l₂ := as.drop k)
  rwa [List.take_append_drop] at h

/-- Every order of the acts is reached by placing the first act somewhere in an order of the others. -/
theorem exists_placeAct {a : FlipAct} {as l : List FlipAct} (h : l.Perm (a :: as)) :
    ∃ k l', k < as.length + 1 ∧ l'.Perm as ∧ l = placeAct k a l' := by
  obtain ⟨l₁, l₂, rfl⟩ := List.append_of_mem (h.symm.subset (List.mem_cons_self ..))
  have k : (l₁ ++ l₂).Perm as := (List.perm_middle.symm.trans h).cons_inv
  refine ⟨l₁.length, l₁ ++ l₂, ?_, k, by simp [placeAct]⟩
  have := k.length_eq
  simp only [List.length_append] at this
  omega

/-- Whatever the choices, every act of the flip is taken, and once. -/
theorem flipOrder_perm (choices : Nat) (as : List FlipAct) : (flipOrder choices as).Perm as := by
  induction as with
  | nil => exact .refl _
  | cons a as ih => exact (placeAct_perm _ a _).trans (ih.cons a)

theorem flip_eq :
    flip s =
      { flipActs s (flipOrder s.choices flipAll) (flipStore s) with
        choices := (flipActs s (flipOrder s.choices flipAll) (flipStore s)).choices + 1 } := rfl

/-! ## The classifier of a line -/

/-- A drop counted, a hit counted: the counters only. -/
theorem countDrop_shape (c : Option TrafficClass) (r : DropReason) :
    ∃ ct, countDrop p c r s = { s with counters := ct } := by
  unfold countDrop
  split
  · exact ⟨_, rfl⟩
  · exact ⟨_, rfl⟩
  · exact ⟨_, rfl⟩

theorem countHits_shape (hs : List HitCounter) : ∃ ct, countHits hs s = { s with counters := ct } := by
  unfold countHits
  induction hs generalizing s with
  | nil => exact ⟨_, rfl⟩
  | cons h hs ih =>
    obtain ⟨ct, e⟩ := ih (count (.hit h) 1 s)
    exact ⟨ct, e⟩

/-- The judgement of a header writes its classifier, the phase and the counters. -/
theorem classifierHeader_shape (l : Line) (f : HeaderFacts) :
    ∃ c ph ct, classifierHeader l f s =
      { s with cls := s.cls.set l c, store := { s.store with phase := ph }, counters := ct } := by
  unfold classifierHeader
  dsimp only
  split
  · rename_i r _
    obtain ⟨ct, e⟩ := countDrop_shape
      (s.setCls l
        { s.cls.get l with
          facts := some f
          outcome := judgeHeader (s.store.bank (s.cls.get l).bank).identity f, state := .draining }) l none r
    rw [e]
    obtain ⟨ph, e⟩ := leaveClassification_shape
      { s.setCls l
          { s.cls.get l with
            facts := some f
            outcome := judgeHeader (s.store.bank (s.cls.get l).bank).identity f, state := .draining } with
        counters := ct } l
    rw [e]
    exact ⟨_, _, _, rfl⟩
  · exact ⟨_, _, _, rfl⟩
  · exact ⟨_, _, _, rfl⟩
  · exact ⟨_, _, _, rfl⟩

/-- A reservation writes its classifier, the pool, and by a notice the service queues. -/
theorem reserve_shape (l : Line) (c : TrafficClass) (total : Nat) :
    ∃ k po sv of ct ns, reserve l c total s =
      { s with cls := s.cls.set l k, pool := po, service := sv, offers := of, counters := ct, noticeSeq := ns } := by
  unfold reserve
  dsimp only
  split
  · obtain ⟨ct, e⟩ := countDrop_shape
      (s.setCls l { s.cls.get l with outcome := .drop .queueLimit, state := .draining }) l (some c) .queueLimit
    rw [e]
    exact ⟨_, _, _, _, _, _, rfl⟩
  · split
    · exact ⟨_, _, _, _, _, _, rfl⟩
    · unfold refuseCells
      dsimp only
      obtain ⟨ct, e⟩ := countDrop_shape
        (s.setCls l { s.cls.get l with outcome := .drop .noCell, state := .draining }) l (some c) .noCell
      rw [e]
      split
      · obtain ⟨sv, of, ct', h⟩ := notify_shape
          { s.setCls l { s.cls.get l with outcome := .drop .noCell, state := .draining } with
            counters := ct, pool := { s.pool with armed := false } } (.poolExhausted l.opposite) s.timebase
        exact ⟨_, _, sv, of, ct', _, h⟩
      · exact ⟨_, _, _, _, _, _, rfl⟩

theorem requestCapture_shape (l : Line) (tr : Trigger) (total : Nat) (window : List Byte) :
    ∃ k ca ct, requestCapture l tr total window s = { s with cls := s.cls.set l k, capture := ca, counters := ct } := by
  unfold requestCapture
  dsimp only
  split
  · exact ⟨_, _, _, rfl⟩
  · refine ⟨s.cls.get l, s.capture, s.counters.add (.capture .missed) 1, ?_⟩
    rw [PerLine.set_get]
    rfl

theorem dropSlot_shape (l : Line) : ∃ ca, dropSlot l s = { s with capture := ca } := by
  unfold dropSlot
  split
  · exact ⟨_, rfl⟩
  · exact ⟨_, rfl⟩

theorem holdSlot_shape (l : Line) :
    ∃ ca sv of ct ns, holdSlot l s =
      { s with capture := ca, service := sv, offers := of, counters := ct, noticeSeq := ns } := by
  unfold holdSlot
  split
  · split
    · rename_i k _ _ r bs _
      obtain ⟨sv, of, ct, h⟩ := notify_shape
        (count (.capture .taken) 1 (s.setCapture (s.capture.setSlot k (.held r bs)))) (.captureTaken k) s.timebase
      exact ⟨_, sv, of, ct, _, h⟩
    · exact ⟨_, _, _, _, _, rfl⟩
    · exact ⟨_, _, _, _, _, rfl⟩
  · exact ⟨_, _, _, _, _, rfl⟩

theorem dropReservation_eq (l : Line) :
    dropReservation l s =
      { s with
        pool := match (s.cls.get l).reservation with
          | some d => s.pool.give l.opposite d.cells
          | none => s.pool } := by
  unfold dropReservation
  cases (s.cls.get l).reservation <;> rfl

theorem offerRequest_shape (l : Line) (frame : List Byte) :
    ∃ ag ct, offerRequest l frame s = { s with agent := ag, counters := ct } := by
  unfold offerRequest
  split
  · split
    · dsimp only
      split <;> exact ⟨_, _, rfl⟩
    · exact ⟨_, _, rfl⟩
  · exact ⟨_, _, rfl⟩

theorem leaveIfJudging_shape (l : Line) :
    ∃ ph, leaveIfJudging l s = { s with store := { s.store with phase := ph } } := by
  unfold leaveIfJudging
  split
  · exact leaveClassification_shape s l
  · exact ⟨_, rfl⟩

/-- A frame abort writes the classifier of its line, the phase, the pool and the capture store. -/
theorem classifierAbort_shape (l : Line) :
    ∃ ph po ca, classifierAbort l s =
      { s with
        cls := s.cls.set l Classifier.empty, store := { s.store with phase := ph }, pool := po, capture := ca } := by
  unfold classifierAbort
  obtain ⟨ph, h1⟩ := leaveIfJudging_shape s l
  rw [h1, dropReservation_eq]
  obtain ⟨ca, h2⟩ := dropSlot_shape
    { s with
      store := { s.store with phase := ph }
      pool := match (s.cls.get l).reservation with
        | some d => s.pool.give l.opposite d.cells
        | none => s.pool } l
  exact ⟨ph, _, ca, congrArg (fun x => State.setCls x l Classifier.empty) h2⟩

/-! ## Reception -/

theorem push_eq (r : Reception) (sym : Symbol) (b : Byte) : r.push b (sym == .invalid) = r.withByte sym b := rfl

theorem countReceived_eq (l : Line) :
    countReceived l (s.port.get l).rx.count s = { s with counters := s.countedAtEnd l } := rfl

/-- R4: a symbol that leaves an UP line UP reaches the delimiter after the line's counts have moved. -/
theorem receive_up (l : Line) (sym : Symbol) (up : (s.port.get l).line = .up)
    (stays : sym ≠ .invalid ∨ (s.port.get l).errorCount < 3) :
    receive l sym s = delimit l sym (s.setPort l ((s.port.get l).afterSymbol sym)) := by
  cases sym <;> simp only [receive, up, LinePort.afterSymbol, LinePort.afterValid]
  rcases stays with h | h
  · exact absurd rfl h
  · rw [if_pos (by omega)]

theorem receive_fourth (l : Line) (up : (s.port.get l).line = .up) (errors : (s.port.get l).errorCount = 3) :
    receive l .invalid s = lineDown l s := by
  simp [receive, up, errors]

/-- Inside a frame a data symbol is a byte of it, and so is an invalid one. -/
theorem delimit_byte (l : Line) (sym : Symbol) (b : Byte) (inFrame : (s.port.get l).rx.state ≠ .idle)
    (spells : sym = .data b ∨ (sym = .invalid ∧ b = 0x00#8)) :
    delimit l sym s = frameByte l b (sym == .invalid) s := by
  rcases spells with rfl | ⟨rfl, rfl⟩
  · unfold delimit
    split <;> simp_all
    rfl
  · unfold delimit
    split <;> simp_all

/-! ## The management agent -/

theorem onRole_shape (i : Fin 4) (f : Role → Role) : ∃ cs, onRole i f s = { s with contexts := cs } := ⟨_, rfl⟩

theorem nextRequest_eq : nextRequest s = s.setAgent s.agent.afterFinish := rfl

theorem sendReply_shape (l : Line) (frame : List Byte) (awaited : Bool) :
    ∃ sv of ct, sendReply l frame awaited s = { s with service := sv, offers := of, counters := ct } :=
  enqueue_shape s l _

/-- An answer that carries no FULL reset writes the contexts, the agent and the service queues. -/
theorem answer_shape (status : Byte) (h : InHand) (f : h.full = false) :
    ∃ cs ag sv of ct, answer status h s =
      { s with contexts := cs, agent := ag, service := sv, offers := of, counters := ct } := by
  unfold answer
  simp only [f, Bool.not_false, if_true]
  obtain ⟨sv, of, ct, e⟩ := sendReply_shape
    (s.setContext h.ctx (s.contexts[h.ctx].map fun c =>
      { c with reply := some (replyFrame h.src h.flow h.seq (replyPayload status s.store.generation h.results) s) }))
    h.line (replyFrame h.src h.flow h.seq (replyPayload status s.store.generation h.results) s) false
  rw [e]
  exact ⟨_, _, sv, of, ct, rfl⟩

theorem waitForCopy_shape (h : InHand) :
    ∃ cs, waitForCopy h s = { s with contexts := cs, agent := { s.agent with state := .commitWait } } := ⟨_, rfl⟩

theorem finishCopy_eq :
    finishCopy s =
      { s with store := { s.store.setStaging s.store.activeBank with phase := .steady, dirty := false } } := rfl

theorem endWait_shape (h : InHand) : ∃ cs ag, endWait h s = { s with contexts := cs, agent := ag } := by
  unfold endWait
  dsimp only
  split
  · exact ⟨_, _, rfl⟩
  · exact ⟨_, _, rfl⟩

end Sys2Proof.Machine
end

