-- ==== Sys2Proof/Laws/Commands.lean ====
section
/-! SUPPORT. The lists that fit a reply (R138, R146), and the form checks of the commands. -/

namespace Sys2Proof.Machine

/-- The items kept are the longest leading part whose bytes fit the room. -/
theorem fitItems_spec (room : Nat) (xs : List (List Byte)) :
    ∃ n ≤ xs.length, fitItems room xs = xs.take n ∧ ((xs.take n).map List.length).sum ≤ room ∧
      (n < xs.length → room < ((xs.take (n + 1)).map List.length).sum) := by
  induction xs generalizing room with
  | nil => exact ⟨0, Nat.le_refl 0, rfl, Nat.zero_le _, fun h => absurd h (Nat.lt_irrefl 0)⟩
  | cons x xs ih =>
    by_cases h : x.length ≤ room
    · obtain ⟨n, hn, h1, h2, h3⟩ := ih (room - x.length)
      refine ⟨n + 1, Nat.succ_le_succ hn, by simp [fitItems, h, h1], ?_, fun hl => ?_⟩
      · simp only [List.take_succ_cons, List.map_cons, List.sum_cons]
        omega
      · have := h3 (Nat.lt_of_succ_lt_succ hl)
        rw [List.take_succ_cons, List.map_cons, List.sum_cons]
        omega
    · exact ⟨0, Nat.zero_le _, by simp [fitItems, h], Nat.zero_le _, fun _ => by simp; omega⟩

/-- A list whose bytes all fit is kept whole. -/
theorem fitItems_all (room : Nat) (xs : List (List Byte)) (h : (xs.map List.length).sum ≤ room) :
    fitItems room xs = xs := by
  induction xs generalizing room with
  | nil => rfl
  | cons x xs ih =>
    simp only [List.map_cons, List.sum_cons] at h
    rw [fitItems, if_pos (by omega), ih _ (by omega)]

/-- What a list command returns: the longest leading part that fits, and OK only when it is the whole list. -/
theorem finishList_spec (h : InHand) (items : List (List Byte)) (s : State) :
    ∃ n ≤ items.length, ((items.take n).map List.length).sum ≤ resultRoom h ∧
      (n < items.length → resultRoom h < ((items.take (n + 1)).map List.length).sum) ∧
      (fitItems (resultRoom h) items).length = n ∧
      finishList h items s =
        finishCommand h (if n = items.length then .ok else .truncated) (items.take n).flatten s := by
  obtain ⟨n, hn, h1, h2, h3⟩ := fitItems_spec (resultRoom h) items
  refine ⟨n, hn, h2, h3, by rw [h1, List.length_take, Nat.min_eq_left hn], ?_⟩
  unfold finishList
  simp only [h1, List.length_take, Nat.min_eq_left hn]

theorem finishList_all (h : InHand) (items : List (List Byte)) (s : State)
    (hf : (items.map List.length).sum ≤ resultRoom h) :
    finishList h items s = finishCommand h .ok items.flatten s := by
  unfold finishList
  simp only [fitItems_all _ _ hf, if_true]

/-! ## The staging bank -/

variable (t : TableStore) (b : Bank)

@[simp] theorem setStaging_stagingBank : (t.setStaging b).stagingBank = b := by
  unfold TableStore.setStaging TableStore.stagingBank
  cases t.active <;> rfl

@[simp] theorem setStaging_activeBank : (t.setStaging b).activeBank = t.activeBank := by
  unfold TableStore.setStaging TableStore.activeBank
  cases h : t.active <;> simp [TableStore.bank]

@[simp] theorem setStaging_active : (t.setStaging b).active = t.active := by
  unfold TableStore.setStaging
  cases h : t.active <;> rfl

@[simp] theorem setStaging_generation : (t.setStaging b).generation = t.generation := by
  unfold TableStore.setStaging
  cases t.active <;> rfl

@[simp] theorem setStaging_phase : (t.setStaging b).phase = t.phase := by
  unfold TableStore.setStaging
  cases t.active <;> rfl

@[simp] theorem setStaging_dirty : (t.setStaging b).dirty = t.dirty := by
  unfold TableStore.setStaging
  cases t.active <;> rfl

end Sys2Proof.Machine
end

