-- ==== Sys2Proof/Laws/Fields.lean ====
section
/-! SUPPORT. Fields and codes written and read back, and the counters: what an addition and a clear leave. -/

namespace Sys2Proof.Machine

/-! ## Fields -/

@[simp] theorem be16_bytes (v : Half) : be16 (v.extractLsb' 8 8) (v.extractLsb' 0 8) = v := by
  apply BitVec.eq_of_getLsbD_eq
  intro i h
  show (v.extractLsb' 8 8 ++ v.extractLsb' 0 8).getLsbD i = v.getLsbD i
  rw [BitVec.getLsbD_append, BitVec.getLsbD_extractLsb', BitVec.getLsbD_extractLsb']
  by_cases h1 : i < 8
  · simp [h1]
  · simp [h1, show i - 8 < 8 by omega, show 8 + (i - 8) = i by omega]

@[simp] theorem be32_bytes (v : Word) :
    be32 (v.extractLsb' 24 8) (v.extractLsb' 16 8) (v.extractLsb' 8 8) (v.extractLsb' 0 8) = v := by
  apply BitVec.eq_of_getLsbD_eq
  intro i h
  show (v.extractLsb' 24 8 ++ v.extractLsb' 16 8 ++ v.extractLsb' 8 8 ++ v.extractLsb' 0 8).getLsbD i = v.getLsbD i
  simp only [BitVec.getLsbD_append, BitVec.getLsbD_extractLsb']
  by_cases h1 : i < 8
  · simp [h1]
  · by_cases h2 : i < 16
    · simp [h1, show i - 8 < 8 by omega, show 8 + (i - 8) = i by omega]
    · by_cases h3 : i < 24
      · simp [h1, show ¬ i - 8 < 8 by omega, show i - 8 - 8 < 8 by omega, show 16 + (i - 8 - 8) = i by omega]
      · simp [h1, show ¬ i - 8 < 8 by omega, show ¬ i - 8 - 8 < 8 by omega, show i - 8 - 8 - 8 < 8 by omega,
          show 24 + (i - 8 - 8 - 8) = i by omega]

@[simp] theorem bytes16_length (v : Half) : (bytes16 v).length = 2 := rfl

@[simp] theorem bytes32_length (v : Word) : (bytes32 v).length = 4 := rfl

@[simp] theorem bytes48_length (v : BitVec 48) : (bytes48 v).length = 6 := rfl

/-- The 16-bit field at the head of what follows `n` bytes. -/
theorem halfAt_append (pre rest : List Byte) (v : Half) : halfAt (pre ++ (bytes16 v ++ rest)) pre.length = v := by
  have h : ∀ i, byteAt (pre ++ (bytes16 v ++ rest)) (pre.length + i) = byteAt (bytes16 v ++ rest) i := fun i => by
    simp [byteAt, List.getD_eq_getElem?_getD, List.getElem?_append_right]
  unfold halfAt
  rw [h 1, show pre.length = pre.length + 0 from rfl, h 0]
  simp [byteAt, bytes16]

/-! ## Codes -/

@[simp] theorem ofCode_code (t : TableId) : TableId.ofCode t.code = some t := by cases t <;> rfl

theorem code_of_ofCode {b : Byte} {t : TableId} (h : TableId.ofCode b = some t) : t.code = b := by
  unfold TableId.ofCode at h
  split at h
  · simp_all [TableId.code]
    subst h
    rfl
  · split at h
    · simp_all [TableId.code]
      subst h
      rfl
    · split at h
      · simp_all [TableId.code]
        subst h
        rfl
      · split at h
        · simp_all [TableId.code]
          subst h
          rfl
        · split at h
          · simp_all [TableId.code]
            subst h
            rfl
          · split at h
            · simp_all [TableId.code]
              subst h
              rfl
            · split at h
              · simp_all [TableId.code]
                subst h
                rfl
              · exact absurd h (by simp)

@[simp] theorem classOfByte_classByte (c : TrafficClass) : classOfByte (classByte c) = some c := by
  revert c
  decide

@[simp] theorem matchOfByte_matchByte (m : StationMatch) : matchOfByte (matchByte m) = some m := by cases m <;> rfl

@[simp] theorem verdictOfByte_verdictByte (v : Verdict) : verdictOfByte (verdictByte v) = some v := by cases v <;> rfl

@[simp] theorem arrivalSetOfByte_arrivalSetByte (a : ArrivalSet) : arrivalSetOfByte (arrivalSetByte a) = some a := by
  cases a <;> rfl

@[simp] theorem actionOfByte_actionByte (a : RuleAction) : actionOfByte (actionByte a) = some a := by cases a <;> rfl

@[simp] theorem captureModeOfByte_captureModeByte (m : CaptureMode) :
    captureModeOfByte (captureModeByte m) = some m := by cases m <;> rfl

@[simp] theorem admissionOfByte_admissionByte (a : Admission) : admissionOfByte (admissionByte a) = some a := by
  cases a <;> rfl

@[simp] theorem stationClassOfByte_stationClassByte (c : StationClass) :
    stationClassOfByte (stationClassByte c) = some c := by
  cases c with
  | flow => decide
  | cls k => revert k; decide

/-! ## Entries written and read back -/

theorem decodeWord_bytes32 (w : Word) : decodeWord (bytes32 w) = some w := by
  simp [decodeWord, bytes32]

theorem decodeClassPol_encode (e : ClassPol) : decodeClassPol (encodeClassPol e) = some e := by
  simp [decodeClassPol, encodeClassPol, bytes16, bytes32]

theorem decodePortPol_encode (e : PortPol) : decodePortPol (encodePortPol e) = some e := by
  simp [decodePortPol, encodePortPol, bytes16]

theorem decodeStation_encode (e : StationEntry) : decodeStation (encodeStation e) = some e := by
  obtain ⟨id, m, v, k, c, g, x⟩ := e
  simp only [encodeStation, bytes32, List.cons_append, List.nil_append, decodeStation, matchOfByte_matchByte,
    verdictOfByte_verdictByte, stationClassOfByte_stationClassByte, be32_bytes]
  cases c <;> cases g <;> cases x <;> rfl

theorem decodeTarget_none : decodeTarget 0xFF#8 0 = some none := rfl

theorem decodeTarget_some (g : NoticeTarget) : decodeTarget (lineCode g.line) g.station = some (some g) := by
  obtain ⟨l, x⟩ := g
  cases l <;> rfl

theorem decodeDevPol_encode (e : DevPol) : decodeDevPol (encodeDevPol e) = some e := by
  obtain ⟨cm, ad, ra, rb, rs, tg, dl⟩ := e
  cases tg with
  | none =>
    simp [encodeDevPol, decodeDevPol, encodeTarget, bytes16, bytes32, be32]
    rfl
  | some g =>
    simp [encodeDevPol, decodeDevPol, encodeTarget, bytes16, bytes32, decodeTarget_some]

/-! ## Counters -/

@[simp] theorem Counter.clear_toNat (k : Counter) : k.clear.toNat = 0 := by cases k <;> rfl

theorem Counter.add_zero (k : Counter) : k.add 0 = k := by
  cases k with
  | frame v =>
    have h : min v.toNat 0xFFFFFFFF = v.toNat := Nat.min_eq_left (by omega)
    simp [Counter.add, h]
  | octet v =>
    have h : min v.toNat 0xFFFFFFFFFFFF = v.toNat := Nat.min_eq_left (by omega)
    simp [Counter.add, h]

theorem Counter.add_toNat (k : Counter) (n : Nat) :
    (k.add n).toNat = min (k.toNat + n) (match k with
      | .frame _ => 0xFFFFFFFF
      | .octet _ => 0xFFFFFFFFFFFF) := by
  cases k with
  | frame v =>
    simp only [Counter.add, Counter.toNat, BitVec.toNat_ofNat]
    exact Nat.mod_eq_of_lt (by omega)
  | octet v =>
    simp only [Counter.add, Counter.toNat, BitVec.toNat_ofNat]
    exact Nat.mod_eq_of_lt (by omega)

theorem bump_get {k : Nat} (v : Vector Counter k) (i j : Fin k) (n : Nat) :
    (bump v i n)[j] = if j = i then v[i].add n else v[j] := by
  unfold bump
  by_cases h : j = i
  · subst h
    simp
  · rw [if_neg h]
    exact Vector.getElem_set_ne i.isLt j.isLt (fun e => h (Fin.ext e.symm))

end Sys2Proof.Machine
end

