-- ==== Sys2Proof/Laws/PerInstr.lean ====
section
/-! SUPPORT. The rows of the opcode table that stand for a management command: the code and the operands that each one
stands for (Table 11-5). -/

namespace Sys2Proof.Laws.ManagementRows

open Sys2Proof.Machine

/-- The command of a request payload that a row stands for, if it stands for one. -/
def commandOf : Instr → Option Cmd
  | .openSession ops => some { code := codeOpen, ops := ops }
  | .closeSession ops => some { code := codeClose, ops := ops }
  | .rd ops => some { code := codeRd, ops := ops }
  | .wr ops => some { code := codeWr, ops := ops }
  | .fill ops => some { code := codeFill, ops := ops }
  | .commit ops => some { code := codeCommit, ops := ops }
  | .revert ops => some { code := codeRevert, ops := ops }
  | .stat ops => some { code := codeStat, ops := ops }
  | .capt ops => some { code := codeCapt, ops := ops }
  | .free ops => some { code := codeFree, ops := ops }
  | .query ops => some { code := codeQuery, ops := ops }
  | .resetCounters => some { code := codeReset, ops := [0x00#8] }
  | .resetTraffic => some { code := codeReset, ops := [0x01#8] }
  | .resetFull => some { code := codeReset, ops := [0x02#8] }
  | .resetnAssert | .resetnRelease _ | .symbolReceived _ _ | .egressDecision _ | .launchCompletion _
  | .residenceExpiry _ _ | .windowRelease _ _ | .ageingEvent _ _ | .cadenceExpiry _ | .requestTake
  | .copyBackCompletion | .leaseExpiry => none

/-- The agent runs this row for the command it stands for, and for no other; REQUEST_TAKE is left for the commands that
are no row. -/
def Statement (i : Instr) : Prop :=
  ∀ c : Cmd, commandOf i = some c ↔ c.toInstr = i ∧ i ≠ .requestTake

theorem pick {p : Prop} [Decidable p] {a b i : Instr} {Q : Prop} (h : (if p then a else b) = i) (hp : p → a = i → Q)
    (hn : b = i → Q) : Q := by
  by_cases e : p
  · exact hp e (by rwa [if_pos e] at h)
  · exact hn (by rwa [if_neg e] at h)

/-- A command whose row is `i` is the one that `i` stands for. -/
theorem commandOf_of_toInstr (c : Cmd) (i : Instr) (h : c.toInstr = i) : i = .requestTake ∨ commandOf i = some c := by
  obtain ⟨code, ops⟩ := c
  have named : ∀ j : Instr, commandOf j = some { code := code, ops := ops } → j = i →
      i = .requestTake ∨ commandOf i = some { code := code, ops := ops } := fun j e r => .inr (r ▸ e)
  unfold Cmd.toInstr at h
  refine pick h (fun e => named _ (by obtain rfl : code = codeOpen := e; rfl)) (fun h => ?_)
  refine pick h (fun e => named _ (by obtain rfl : code = codeClose := e; rfl)) (fun h => ?_)
  refine pick h (fun e => named _ (by obtain rfl : code = codeRd := e; rfl)) (fun h => ?_)
  refine pick h (fun e => named _ (by obtain rfl : code = codeWr := e; rfl)) (fun h => ?_)
  refine pick h (fun e => named _ (by obtain rfl : code = codeFill := e; rfl)) (fun h => ?_)
  refine pick h (fun e => named _ (by obtain rfl : code = codeCommit := e; rfl)) (fun h => ?_)
  refine pick h (fun e => named _ (by obtain rfl : code = codeRevert := e; rfl)) (fun h => ?_)
  refine pick h (fun e => named _ (by obtain rfl : code = codeStat := e; rfl)) (fun h => ?_)
  refine pick h (fun e => named _ (by obtain rfl : code = codeCapt := e; rfl)) (fun h => ?_)
  refine pick h (fun e => named _ (by obtain rfl : code = codeFree := e; rfl)) (fun h => ?_)
  refine pick h (fun e => named _ (by obtain rfl : code = codeQuery := e; rfl)) (fun h => ?_)
  refine pick h (fun e => named _ (by obtain ⟨rfl, rfl⟩ : code = codeReset ∧ ops = [0x00#8] := e; rfl)) (fun h => ?_)
  refine pick h (fun e => named _ (by obtain ⟨rfl, rfl⟩ : code = codeReset ∧ ops = [0x01#8] := e; rfl)) (fun h => ?_)
  refine pick h (fun e => named _ (by obtain ⟨rfl, rfl⟩ : code = codeReset ∧ ops = [0x02#8] := e; rfl)) (fun h => ?_)
  exact .inl h.symm

theorem statement_of (i : Instr) (r : i ≠ .requestTake) (h : ∀ c, commandOf i = some c → c.toInstr = i) :
    Statement i := by
  refine fun c => ⟨fun e => ⟨h c e, r⟩, fun e => ?_⟩
  exact (commandOf_of_toInstr c i e.1).resolve_left r

theorem spelled {i : Instr} {c0 : Cmd} (e : commandOf i = some c0) (h : c0.toInstr = i) (c : Cmd)
    (hc : commandOf i = some c) : c.toInstr = i := by
  have : c0 = c := Option.some.inj (e.symm.trans hc)
  exact this ▸ h

theorem unspelled {i : Instr} (e : commandOf i = none) (c : Cmd) (hc : commandOf i = some c) : c.toInstr = i := by
  rw [e] at hc
  exact absurd hc (by simp)

theorem resetnAssert : Statement .resetnAssert :=
  statement_of _ (by simp) (unspelled rfl)

theorem resetnRelease (straps : BitVec 6) : Statement (.resetnRelease straps) :=
  statement_of _ (by simp) (unspelled rfl)

theorem symbolReceived (l : Line) (sym : Symbol) : Statement (.symbolReceived l sym) :=
  statement_of _ (by simp) (unspelled rfl)

theorem egressDecision (l : Line) : Statement (.egressDecision l) :=
  statement_of _ (by simp) (unspelled rfl)

theorem launchCompletion (l : Line) : Statement (.launchCompletion l) :=
  statement_of _ (by simp) (unspelled rfl)

theorem residenceExpiry (l : Line) (c : TrafficClass) : Statement (.residenceExpiry l c) :=
  statement_of _ (by simp) (unspelled rfl)

theorem windowRelease (l : Line) (c : TrafficClass) : Statement (.windowRelease l c) :=
  statement_of _ (by simp) (unspelled rfl)

theorem ageingEvent (l : Line) (c : TrafficClass) : Statement (.ageingEvent l c) :=
  statement_of _ (by simp) (unspelled rfl)

theorem cadenceExpiry (l : Line) : Statement (.cadenceExpiry l) :=
  statement_of _ (by simp) (unspelled rfl)

theorem requestTake : Statement .requestTake := fun c => by simp [commandOf]

theorem openSession (ops : List Byte) : Statement (.openSession ops) :=
  statement_of _ (by simp) (spelled rfl rfl)

theorem closeSession (ops : List Byte) : Statement (.closeSession ops) :=
  statement_of _ (by simp) (spelled rfl rfl)

theorem rd (ops : List Byte) : Statement (.rd ops) :=
  statement_of _ (by simp) (spelled rfl rfl)

theorem wr (ops : List Byte) : Statement (.wr ops) :=
  statement_of _ (by simp) (spelled rfl rfl)

theorem fill (ops : List Byte) : Statement (.fill ops) :=
  statement_of _ (by simp) (spelled rfl rfl)

theorem commit (ops : List Byte) : Statement (.commit ops) :=
  statement_of _ (by simp) (spelled rfl rfl)

theorem revert (ops : List Byte) : Statement (.revert ops) :=
  statement_of _ (by simp) (spelled rfl rfl)

theorem copyBackCompletion : Statement .copyBackCompletion :=
  statement_of _ (by simp) (unspelled rfl)

theorem stat (ops : List Byte) : Statement (.stat ops) :=
  statement_of _ (by simp) (spelled rfl rfl)

theorem capt (ops : List Byte) : Statement (.capt ops) :=
  statement_of _ (by simp) (spelled rfl rfl)

theorem free (ops : List Byte) : Statement (.free ops) :=
  statement_of _ (by simp) (spelled rfl rfl)

theorem query (ops : List Byte) : Statement (.query ops) :=
  statement_of _ (by simp) (spelled rfl rfl)

theorem resetCounters : Statement .resetCounters :=
  statement_of _ (by simp) (spelled rfl rfl)

theorem resetTraffic : Statement .resetTraffic :=
  statement_of _ (by simp) (spelled rfl rfl)

theorem resetFull : Statement .resetFull :=
  statement_of _ (by simp) (spelled rfl rfl)

theorem leaseExpiry : Statement .leaseExpiry :=
  statement_of _ (by simp) (unspelled rfl)

end Sys2Proof.Laws.ManagementRows
end

