-- ==== Sys2Proof/WellFormed.lean ====
section
/-! DEFINITION. When a command is one that the part can meet: its operand bytes fit the operand length byte. -/

namespace Sys2Proof

/-- The operand bytes a command carries (Table 11-3). -/
def Instr.operands : Instr → List Byte
  | .openSession ops | .closeSession ops | .rd ops | .wr ops | .fill ops | .commit ops | .revert ops
  | .stat ops | .capt ops | .free ops | .query ops => ops
  | .resetnAssert | .resetnRelease _ | .symbolReceived _ _ | .egressDecision _ | .launchCompletion _
  | .residenceExpiry _ _ | .windowRelease _ _ | .ageingEvent _ _ | .cadenceExpiry _ | .requestTake
  | .copyBackCompletion | .resetCounters | .resetTraffic | .resetFull | .leaseExpiry => []

/-- Table 8-5: the operand length of a command is 0 to 255. The classes, the lines and the six strap levels are
bounded by their types. -/
def Instr.wellFormed (i : Instr) : Bool :=
  i.operands.length ≤ 255

end Sys2Proof
end

