-- ==== Sys2Proof/Tests/Slice0.lean ====
section
/-! SUPPORT. Tests of the model on small states, and for each statement with hypotheses a state and operands that meet
them, clause by clause. -/

namespace Sys2Proof.Tests

-- Each kernel evaluation would hold a thread of its own while it waits for the theorems before it.
set_option Elab.async false

open Sys2Proof.Machine

/-- The outcome is a next state that passes this check. -/
def answers (o : Host.Outcome State Fault Refusal) (check : State → Bool) : Bool :=
  match o with
  | .next t => check t
  | .fault _ => false
  | .refused _ => false

/-! ## Ill-formed commands are refused -/

theorem test_wellFormed_limits :
    (Instr.wr (List.replicate 255 0#8)).wellFormed = true ∧ (Instr.wr (List.replicate 256 0#8)).wellFormed = false ∧
      (Instr.query (List.replicate 300 0#8)).wellFormed = false ∧ Instr.requestTake.wellFormed = true := by
  decide +kernel

theorem test_no_word_spells_a_command :
    decodeTableWord 8 0 = none ∧ (State.withFetchWord State.reset 8 0).pending = [] := by
  decide +kernel

/-! ## Small states -/

/-- Both lines UP, with this reception and classifier on Line N. -/
def upPort (rx : Reception) (errors : Nat) : LinePort :=
  { line := .up, alignCount := 16, errorCount := errors, cleanCount := 0, rx := rx }

def upWith (rx : Reception) (c : Classifier) : State :=
  { State.powerOn 0 with
    port := { n := upPort rx 0, s := upPort Reception.none 0 }, cls := { n := c, s := Classifier.empty } }

def up : State := upWith Reception.none Classifier.empty

def received (st : RxState) (n : Nat) : Reception :=
  { state := st, count := n, symbolError := false, declared := none, bytes := List.replicate n 0x01#8 }

def judging : Classifier := { Classifier.empty with state := .judging }

def desc : Descriptor :=
  { arrival := .n, cls := 2, total := 20, cells := 1, entry := none, state := .receiving, data := [] }

def queued : Descriptor := { desc with state := .queued, entry := some 0, data := List.replicate 20 0x01#8 }

def carrying (d : Descriptor) : Classifier := { Classifier.empty with state := .carrying, reservation := some d }

/-- A frame of 20 bytes with payload length 0 and a good check word. -/
def goodBytes : List Byte := withCheck (header 0x77#32 0x88#32 0x01#8 0x40#8 0 0 0)

def wholeFrame (st : RxState) : Reception :=
  { state := st, count := 20, symbolError := false, declared := some 20, bytes := goodBytes }

def service (awaited : Bool) : ServiceEntry :=
  { frame := [], sort := .reply, builder := .agent, awaited := awaited }

def launch (x : LaunchSource) : Launch := { start := 0, bytes := [], source := x }

/-- Line S UP and free with one offer, this cadence unit, service queue, class queue 2 and lane 2. -/
def deciding (u : Cadence) (q : List ServiceEntry) (ds : List Descriptor) : State :=
  ({ up with
      offers := { n := 0, s := 1 }, cadence := { n := Cadence.powerOn, s := u }, service := { n := [], s := q } } :
    State).setQueue .s 2 ds

def reader : Context := { src := 0xA10#32, line := .n, lastSeq := 5, reply := some [], role := .reader }

def editor : Context := { reader with role := .editor 10 (.running 100000) }

def inHand (cs : List Cmd) : InHand :=
  { ctx := 0, line := .n, src := 0xA10#32, flow := 0, seq := 5, results := [], toRun := cs, sections := [],
    full := false }

/-- The agent runs these commands for context 0. -/
def running (ctx : Context) (cs : List Cmd) : State :=
  { up with
    agent := { state := .executing, queue := [], hand := .request (inHand cs) }
    contexts := (Vector.replicate 4 none).set 0 (some ctx), recency := [0] }

theorem running_runs (ctx : Context) (code : Byte) (ops : List Byte) :
    (running ctx [{ code := code, ops := ops }]).Running (inHand [{ code := code, ops := ops }]) code ops :=
  ⟨rfl, rfl, rfl, rfl⟩

def dirty (s : State) : State := { s with store := { s.store with dirty := true } }

/-- A request frame with this sequence and payload, from the station of `reader`. -/
def request (seq : Half) (payload : List Byte) : Request :=
  { frame := withCheck (buildFrame 0x3C000000#32 0xA10#32 0x10#8 0x40#8 0 seq payload), line := .n }

/-- The agent is EXECUTING with this request taken into its hand. -/
def asked (ctx : Option Context) (r : Request) : State :=
  { up with
    agent := { state := .executing, queue := [], hand := .taken r }
    contexts := (Vector.replicate 4 none).set 0 ctx, recency := if ctx.isSome then [0] else [] }

/-! ## What the encodings spell -/

/-- R14: the check word of the nine ASCII digits 1 to 9, computed by hand from the rule. -/
theorem test_check_word :
    checkWord [0x31#8, 0x32#8, 0x33#8, 0x34#8, 0x35#8, 0x36#8, 0x37#8, 0x38#8, 0x39#8] = 88346389#32 := by
  decide +kernel

/-- R67: probes of D = 8000000FH with rotations 0 and 1. -/
theorem test_probes : probeA 0x8000000F#32 0 = 15#11 ∧ probeB 0x8000000F#32 0 = 15#11 ∧
    probeB 0x80000001#32 1 = 1024#11 ∧ probeA 0x8000000F#32 11 = 15#11 := by
  decide +kernel

/-- Table 11-6: a STATION entry with match SRC, class 6, manager and valid. -/
theorem test_station_entry :
    decodeStation [0x00#8, 0x00#8, 0x0A#8, 0x10#8, 0x01#8, 0x00#8, 0x06#8, 0x05#8] =
      some
        { id := 0xA10#32, matchField := .src, verdict := .pass, cls := .cls 6, capture := false, manager := true,
          valid := true } ∧
    decodeStation [0x00#8, 0x00#8, 0x0A#8, 0x10#8, 0x01#8, 0x00#8, 0x08#8, 0x05#8] = none := by
  decide +kernel

/-- The reply payload of the example of section 11.5. -/
theorem test_reply_payload :
    replyPayload 0x00#8 1
        [{ code := 0x11#8, status := .badValue, data := [0x03#8, 0x00#8, 0x00#8] },
          { code := 0x11#8, status := .notRun, data := [] }] =
      [0x00#8, 0x00#8, 0x00#8, 0x00#8, 0x01#8, 0x02#8, 0x11#8, 0x22#8, 0x00#8, 0x03#8, 0x03#8, 0x00#8, 0x00#8,
        0x11#8, 0x30#8, 0x00#8, 0x00#8] := by
  decide +kernel

/-- Table 8-4 at its boundaries, from l = FFFEH. -/
theorem test_sequence_rule :
    judgeSequence 0xFFFE#16 0xFFFE#16 = .duplicate ∧ judgeSequence 0xFFFF#16 0xFFFE#16 = .fresh ∧
      judgeSequence 0x7FFE#16 0xFFFE#16 = .fresh ∧ judgeSequence 0x7FFF#16 0xFFFE#16 = .stale ∧
      judgeSequence 0xFFFD#16 0xFFFE#16 = .stale := by
  decide +kernel

/-- Section 9.8.4: the room of an RD followed by one command is 986 bytes. -/
theorem test_result_room :
    resultRoom (inHand [{ code := codeRd, ops := [] }, { code := codeQuery, ops := [] }]) = 986 := by
  decide +kernel

/-! ## Steps and pins -/

theorem test_step_meets : ({ up with pending := [.requestTake] } : State).pending = [.requestTake] := rfl

theorem test_idle_meets :
    up.pending = [] ∧ up.due = [] ∧ (deciding Cadence.powerOn [] []).due ≠ [] ∧
      (deciding Cadence.powerOn [] []).pending = [] := by
  decide +kernel

theorem test_reset_pin_meets :
    ({ up with resetLow := true } : State).resetLow = true ∧ up.resetLow = false ∧
      Instr.requestTake ≠ .resetnAssert ∧ ∀ straps, Instr.requestTake ≠ .resetnRelease straps := by
  refine ⟨rfl, rfl, by decide, fun straps => by simp⟩

/-! ## Line states -/

def withPort (st : LineState) (align errors : Nat) : State :=
  { up with
    port := { n := { upPort Reception.none errors with line := st, alignCount := align }, s := up.port.s } }

theorem test_line_states_meet :
    ((withPort .down 0 0).port.get .n).line = .down ∧ ((withPort .aligning 14 0).port.get .n).alignCount + 1 < 16 ∧
      ((withPort .aligning 15 0).port.get .n).line = .aligning ∧
      ((withPort .aligning 15 0).port.get .n).alignCount = 15 ∧ ((withPort .up 0 2).port.get .n).errorCount < 3 ∧
      ((withPort .up 0 3).port.get .n).line = .up ∧ ((withPort .up 0 3).port.get .n).errorCount = 3 ∧
      (withPort .up 0 3).losesAwaited .n = false ∧ (withPort .up 0 3).resetLow = false ∧
      (withPort .up 0 0).txFree .n = true := by
  decide +kernel

/-! ## Frames in reception -/

theorem test_frame_start_meets : (up.port.get .n).line = .up ∧ (up.port.get .n).rx.state = .idle := by
  decide +kernel

/-- START and ABORT inside a frame. -/
theorem test_start_inside_frame_meets :
    let s := upWith (received .body 30) (carrying desc)
    (s.port.get .n).line = .up ∧ (s.port.get .n).rx.state ≠ .idle ∧ s.resetLow = false ∧
      answers (exec (.symbolReceived .n .startSym) s) (fun t => decide ((t.port.get .n).rx.state = .header ∧
        (t.cls.get .n).state = .judging ∧ (t.cls.get .n).reservation = none)) = true := by
  decide +kernel

theorem test_frame_bytes_meet :
    (upWith (received .header 14) judging).Receives .n .invalid 0x00#8 ∧
      (upWith (received .inspect 62) judging).Receives .n .invalid 0x00#8 ∧
      (upWith (received .body 1028) (carrying desc)).Receives .n .invalid 0x00#8 := by
  simp only [State.Receives]
  decide +kernel

/-- A byte passes to the slot its frame holds. -/
def filling : State :=
  { upWith (received .discard 70) { Classifier.empty with state := .draining, slot := some 1 } with
    capture := { CaptureStore.empty.setSlot 1 (.filling
      { arrival := .n, start := 0, generation := 0, trigger := .rule 0, total := 90, outcome := .drop .ruleDrop }
      (List.replicate 70 0x01#8)) with claims := [1] } }

theorem test_slot_filling_meets :
    filling.Receives .n .invalid 0x00#8 ∧ (filling.port.get .n).rx.state = .discard ∧
      (filling.cls.get .n).slot = some 1 ∧
      filling.capture.slot 1 = .filling
        { arrival := .n, start := 0, generation := 0, trigger := .rule 0, total := 90, outcome := .drop .ruleDrop }
        (List.replicate 70 0x01#8) := by
  simp only [State.Receives]
  decide +kernel

/-- A DATA byte with three errors counted. -/
theorem test_frame_byte_after_errors_meets :
    let s := { up with port := { n := upPort (received .body 30) 3, s := up.port.s } }
    s.Receives .n (.data 0x07#8) 0x07#8 ∧ ¬ s.Receives .n .invalid 0x00#8 ∧ (s.port.get .n).rx.state ≠ .idle ∧
      ¬ (s.port.get .n).rx.CompletesAt16 ∧ ¬ (s.port.get .n).rx.CompletesAt64 := by
  simp only [State.Receives, Reception.CompletesAt16, Reception.CompletesAt64]
  decide +kernel

def facts (dest : StationId) (kind hop : Byte) (payload : Nat) : HeaderFacts :=
  { dest := dest, src := 0, kind := kind, hop := hop, label := 0, payload := payload }

/-- The five header steps at their boundaries. -/
theorem test_header_steps :
    judgeHeader 0x3C000000#32 (facts 0x3C000000#32 0x10#8 0 1009) = .drop .length ∧
      judgeHeader 0x3C000000#32 (facts 0x3C000000#32 0x10#8 0 1008) = .management ∧
      judgeHeader 0x3C000000#32 (facts 0x3C000000#32 0x02#8 1 0) = .drop .screenAddressed ∧
      judgeHeader 0x3C000000#32 (facts 0x77#32 0x02#8 1 0) = .drop .terminated ∧
      judgeHeader 0x3C000000#32 (facts 0x77#32 0x01#8 0 0) = .drop .hop ∧
      judgeHeader 0x3C000000#32 (facts 0x77#32 0x01#8 1 0) = .pending := by
  decide +kernel

theorem test_header_complete_meets :
    let s := upWith (received .header 15) judging
    s.Receives .n .invalid 0x00#8 ∧ (s.port.get .n).rx.state = .header ∧ (s.port.get .n).rx.count = 15 ∧
      (s.port.get .n).rx.bytes.length = 15 ∧ (s.cls.get .n).state = .judging ∧ (s.cls.get .n).slot = none := by
  simp only [State.Receives]
  decide +kernel

/-- The 16th byte as a data symbol and as an invalid one, and a frame that ends before it. -/
theorem test_header_byte_meets :
    let s := upWith (received .header 15) judging
    let runt := upWith (received .header 9) judging
    s.Receives .n (.data 0x07#8) 0x07#8 ∧ s.Receives .n .invalid 0x00#8 ∧ (s.port.get .n).rx.CompletesAt16 ∧
      (runt.port.get .n).rx.declared = none ∧ (runt.cls.get .n).resetMark = false ∧
      ¬ (runt.port.get .n).rx.CompletesAt16 ∧ ¬ (runt.port.get .n).rx.CompletesAt64 := by
  simp only [State.Receives, Reception.CompletesAt16, Reception.CompletesAt64]
  decide +kernel

/-- A rule that matches every frame by its first byte, with this action. -/
def firstByteRule (a : RuleAction) : RuleEntry :=
  { enabled := true, arrival := .both, minLength := 20, anchor := 0, width := 1, mask := [0], value := [0],
    action := a, cls := 0 }

def ruleBank : Bank :=
  { Bank.generation0 0 with
    rules := ((Vector.replicate 8 emptyRule).set 0 (firstByteRule .captureContinue)).set 3 (firstByteRule .drop) }

theorem test_rules_meet :
    (ruleBank.rules[(3 : Fin 8)].triedOn .n && ruleBank.rules[(3 : Fin 8)].matchesFrame 20 goodBytes) = true ∧
      ruleBank.rules[(3 : Fin 8)].action ≠ .captureContinue ∧
      (∀ j < (3 : Fin 8), (ruleBank.rules[j].triedOn .n && ruleBank.rules[j].matchesFrame 20 goodBytes) = true →
        ruleBank.rules[j].action = .captureContinue) ∧
      ruleBank.judge .n (facts 0x77#32 0x01#8 1 0) goodBytes =
        { outcome := .drop .ruleDrop, trigger := some (.rule 0), hits := [.rule 0, .rule 3] } := by
  decide +kernel

def stationBank : Bank :=
  { Bank.generation0 0 with
    station := (Bank.generation0 0).station.set 2
      { id := 0x77#32, matchField := .dest, verdict := .drop, cls := .flow, capture := false, manager := false,
        valid := true } }

/-- Entry 2 decides its own frame; a group and an individual frame fall through to steps 8 and 9. -/
theorem test_station_steps :
    (stationBank.judge .n (facts 0x77#32 0x01#8 1 0) goodBytes).outcome = .drop .stationDrop ∧
      (stationBank.judge .n (facts 0x80000001#32 0x01#8 1 0) goodBytes).outcome = .pass 0 ∧
      (stationBank.judge .n (facts 0x78#32 0x01#8 1 0) goodBytes).outcome = .pass 0 := by
  decide +kernel

/-- A frame at its 63rd byte under this active bank and pool. -/
def inspecting (b : Bank) (p : Pool) : State :=
  { upWith (received .inspect 63) { judging with facts := some (facts 0x77#32 0x01#8 1 50) } with
    store := { TableStore.powerOn 0 with bankA := b }, pool := p }

def tightBank : Bank :=
  { Bank.generation0 0 with classpol := Vector.replicate 16 { openClassPol with cellLimit := 1 } }

/-- The outcomes of inspection complete: dropped, over the cell limit, granted, refused. -/
theorem test_inspection_meets :
    let dropped := inspecting stationBank Pool.powerOn
    let limited := inspecting tightBank Pool.powerOn
    let granted := inspecting (Bank.generation0 0) { free := 2, used := { n := 1022, s := 0 }, armed := true }
    let refused := inspecting (Bank.generation0 0) { free := 1, used := { n := 1023, s := 0 }, armed := true }
    let judged := fun s : State => (s.store.bank (s.cls.get .n).bank).judge .n (facts 0x77#32 0x01#8 1 50)
      ((s.port.get .n).rx.bytes ++ [0x01#8])
    (∀ s ∈ [dropped, limited, granted, refused], s.Receives .n .invalid 0x00#8 ∧ (s.port.get .n).rx.state = .inspect ∧
      (s.port.get .n).rx.count = 63 ∧ (s.port.get .n).rx.bytes.length = 63 ∧ (s.cls.get .n).state = .judging ∧
      (s.cls.get .n).outcome = .pending ∧ (s.cls.get .n).facts = some (facts 0x77#32 0x01#8 1 50) ∧
      (s.cls.get .n).reservation = none ∧ (s.cls.get .n).slot = none) ∧
      (judged dropped).outcome = .drop .stationDrop ∧ (judged limited).outcome = .pass 0 ∧
      (judged granted).outcome = .pass 0 ∧ (judged refused).outcome = .pass 0 ∧
      (limited.classPol .s 0).cellLimit.toNat < limited.occupancy .s 0 + cellsFor 70 ∧
      granted.occupancy .s 0 + cellsFor 70 ≤ (granted.classPol .s 0).cellLimit.toNat ∧
      grantTest granted.pool granted.active.devpol .s (cellsFor 70) = true ∧
      grantTest refused.pool refused.active.devpol .s (cellsFor 70) = false := by
  simp only [State.Receives]
  decide +kernel

/-- The 64th byte as a data symbol and as an invalid one, an early END, a capture request and a management frame. -/
theorem test_inspection_points_meet :
    let s := inspecting ruleBank Pool.powerOn
    let request := upWith (received .inspect 40) { judging with outcome := .management }
    s.Receives .n (.data 0x07#8) 0x07#8 ∧ s.Receives .n .invalid 0x00#8 ∧ (s.port.get .n).rx.CompletesAt64 ∧
      (s.port.get .n).rx.state = .inspect ∧ (s.port.get .n).line = .up ∧
      ((s.store.bank (s.cls.get .n).bank).judge .n (facts 0x77#32 0x01#8 1 50) goodBytes).trigger = some (.rule 0) ∧
      (request.cls.get .n).outcome = .management ∧
      ((inspectionComplete .n s).cls.get .n).slot = some 0 ∧
      ((inspectionComplete .n s).capture.slot 0).isEmpty = false := by
  simp only [State.Receives, Reception.CompletesAt64]
  decide +kernel

/-- The choice of a slot: the lowest EMPTY, the earliest claimed HELD one in RING, none in HOLD. -/
theorem test_slot_choice :
    let r : CaptureRecord :=
      { arrival := .n, start := 0, generation := 0, trigger := .rule 0, total := 20, outcome := .pass 0 }
    let full : CaptureStore := { slots := Vector.replicate 4 (.held r []), claims := [2, 0, 1, 3] }
    (CaptureStore.empty.setSlot 0 (.held r [])).choose .hold = some 1 ∧ full.choose .ring = some 2 ∧
      full.choose .hold = none := by
  decide +kernel

theorem test_good_end_meets :
    let s := upWith (wholeFrame .body) (carrying desc)
    s.Receives .n .invalid 0x00#8 ∧ (s.port.get .n).rx.state = .body ∧ (s.cls.get .n).state = .carrying ∧
      (s.cls.get .n).slot = none ∧ endVerdict (s.port.get .n).rx = .good ∧
      (s.cls.get .n).reservation = some desc ∧ 0 < (s.classPol .s desc.cls).residence.toNat ∧
      (s.cls.get .n).resetMark = false ∧ (s.setQueue .s 2 [queued]).queue .s desc.cls ≠ [] := by
  simp only [State.Receives]
  decide +kernel

/-- A good end with a FILLING slot: the slot is HELD, and the frame is QUEUED. -/
theorem test_good_end_with_slot_meets :
    let s := { filling with
      port := { n := upPort (wholeFrame .body) 0, s := filling.port.s }
      cls := { n := { carrying desc with slot := some 1 }, s := Classifier.empty } }
    (s.cls.get .n).slot = some 1 ∧ (s.cls.get .n).resetMark = false ∧ (s.cls.get .n).reservation = some desc ∧
      endVerdict (s.port.get .n).rx = .good ∧
      answers (exec (.symbolReceived .n .endSym) s) (fun t => decide ((t.capture.slot 1).isHeld = true ∧
        (t.queue .s 2).length = 1 ∧ t.noticeSeq = 1)) = true := by
  decide +kernel

theorem test_bad_end_meets :
    let long := upWith { wholeFrame .body with count := 21 } (carrying desc)
    let bad := upWith { wholeFrame .body with symbolError := true } (carrying desc)
    let marked := upWith (wholeFrame .discard) { carrying desc with resetMark := true }
    (∀ s ∈ [long, bad, marked], s.Receives .n .invalid 0x00#8 ∧ (s.cls.get .n).state = .carrying ∧
      (s.cls.get .n).reservation = some desc ∧ (s.port.get .n).rx.state ≠ .idle) ∧
      endVerdict (long.port.get .n).rx = .length ∧ endVerdict (bad.port.get .n).rx = .check ∧
      (marked.port.get .n).rx.state = .discard ∧ (marked.cls.get .n).resetMark = true ∧
      (long.cls.get .n).resetMark = false := by
  simp only [State.Receives]
  decide +kernel

/-- Ends without cells: a frame dropped earlier, one whose capture fails with it, and two marked ones. -/
theorem test_end_without_cells_meets :
    let dropped := upWith (wholeFrame .discard) { Classifier.empty with state := .draining }
    let failed := { filling with port := { n := upPort (received .discard 70) 0, s := filling.port.s } }
    let marked := upWith (wholeFrame .discard) { judging with resetMark := true }
    let gathered := upWith (wholeFrame .discard) { Classifier.empty with state := .gathering, resetMark := true }
    (∀ s ∈ [dropped, failed, marked, gathered], (s.port.get .n).line = .up ∧ (s.port.get .n).rx.state = .discard ∧
      (s.cls.get .n).reservation = none ∧ ((s.cls.get .n).resetMark = true ∨ (s.cls.get .n).state = .draining)) ∧
      (dropped.cls.get .n).slot = none ∧ endVerdict (failed.port.get .n).rx = .length ∧
      (marked.cls.get .n).resetMark = true ∧ (gathered.cls.get .n).resetMark = true := by
  decide +kernel

theorem test_management_end_meets :
    let s := upWith (wholeFrame .body) { Classifier.empty with state := .gathering, outcome := .management }
    s.Receives .n .invalid 0x00#8 ∧ (s.port.get .n).rx.state = .body ∧ (s.cls.get .n).state = .gathering ∧
      (s.cls.get .n).slot = none ∧ (s.cls.get .n).resetMark = false ∧ endVerdict (s.port.get .n).rx = .good ∧
      s.active.admits (wordAt (s.port.get .n).rx.bytes 4) = true ∧ s.agent.queue.length < 4 ∧
      4 ≤ (List.replicate 4 (request 6 [])).length ∧
      ({ stationBank with devpol := { openDevPol with admission := .listed } } : Bank).admits 0x88#32 = false := by
  simp only [State.Receives]
  decide +kernel

/-- A management frame that fails at its end on its length, and one on its check word. -/
theorem test_management_failure_meets :
    let frame := fun r : Reception => upWith r { Classifier.empty with state := .gathering, outcome := .management }
    let long := frame { wholeFrame .body with count := 21 }
    let bad := frame { wholeFrame .body with symbolError := true }
    (∀ s ∈ [long, bad], (s.port.get .n).rx.state = .body ∧ (s.cls.get .n).state = .gathering ∧
      (s.cls.get .n).slot = none ∧ (s.cls.get .n).resetMark = false) ∧
      endVerdict (long.port.get .n).rx = .length ∧ endVerdict (bad.port.get .n).rx = .check := by
  decide +kernel

theorem test_capture_end_meets :
    let s := { filling with port := { n := upPort (wholeFrame .discard) 0, s := filling.port.s } }
    s.Receives .n .invalid 0x00#8 ∧ (s.port.get .n).rx.state = .discard ∧ (s.cls.get .n).resetMark = false ∧
      endVerdict (s.port.get .n).rx = .good ∧ (s.cls.get .n).state = .draining ∧ (s.cls.get .n).slot = some 1 ∧
      (s.capture.slot 1).isEmpty = false ∧ (s.capture.slot 1).isHeld = false := by
  simp only [State.Receives]
  decide +kernel

/-- Table 1-5: the byte count of a frame stays after its END, in reception state IDLE. -/
theorem test_count_stays_after_end :
    answers (exec (.symbolReceived .n .endSym) (upWith (wholeFrame .body) (carrying desc)))
      (fun t => decide (t.port.n.rx.state = .idle ∧ t.port.n.rx.count = 20 ∧ t.port.n.rx.bytes.length = 20)) =
        true := by
  decide +kernel

/-! ## Egress -/

def owing (forced : Bool) : Cadence := { Cadence.powerOn with owed := [7, 60], forced := forced }

theorem test_arbiter_meets :
    (deciding (owing true) [] []).MayDecide .s ∧ (deciding (owing false) [service false] []).MayDecide .s ∧
      (deciding (owing false) [] [queued]).NoEarlierCandidate .s ∧
      (deciding (owing false) [] [queued]).MayDecide .s ∧
      (deciding (owing false) [] [queued]).queue .s 2 = [queued] ∧
      (deciding (owing false) [] [queued]).AllowsDecision .s 2 = true ∧
      ((deciding (owing true) [] []).cadence.get .s).owed = [7, 60] ∧
      (deciding (owing false) [service false] []).service.get .s = [service false] ∧
      (deciding (owing false) [] []).MayDecide .s ∧ (deciding (owing false) [] []).NoEarlierCandidate .s ∧
      (∀ c > (2 : TrafficClass), (deciding (owing false) [] [queued]).queue .s c = []) ∧
      (∀ c, (deciding (owing false) [] []).queue .s c = []) := by
  simp only [State.MayDecide, State.NoEarlierCandidate]
  decide +kernel

/-- A class head is launched with its hop one lower and a new check word. -/
theorem test_head_is_launched :
    answers (exec (.egressDecision .s) (deciding Cadence.powerOn [] [{ queued with data := goodBytes }]))
      (fun t => decide (t.queue .s 2 = [] ∧ (t.lane .s 2).history = [0] ∧
        (t.tx.s.launch.map fun x => (byteAt x.bytes 9, x.bytes.length)) = some (0x3F#8, 20))) = true := by
  decide +kernel

/-- The launch by which a statement on launches that follow a decision is met. -/
theorem test_launch_follows_decision :
    (deciding Cadence.powerOn [] [queued]).txFree .s = true ∧
    answers (exec (.egressDecision .s) (deciding Cadence.powerOn [] [queued])) (fun t => decide (
      (t.tx.s.launch.map (·.source)) = some (.passed { queued with state := .launching }))) = true := by
  decide +kernel

/-- R87: queue 7 is checked before the arbiter's decision at a flip and queue 2 after it, so of two late heads the one
of class 7 leaves and the one of class 2 is launched. -/
theorem test_checks_on_both_sides_of_decision :
    let s := { (deciding Cadence.powerOn [] [queued]).setQueue .s 7 [{ queued with cls := 7 }] with
      timebase := 2000000 }
    let t := flipActs s [.queue .s 7, .arbiter .s, .queue .s 2] s
    t.queue .s 7 = [] ∧ (t.counters.read (.egress .s 7 .residence)).toNat = 1 ∧
      t.queue .s 2 = [] ∧ (t.counters.read (.egress .s 2 .residence)).toNat = 0 ∧
      (t.tx.s.launch.map (·.source)) = some (.passed { queued with state := .launching }) := by
  decide +kernel

def launching (x : LaunchSource) : State :=
  { up with tx := { n := Transmitter.powerOn, s := { launch := some (launch x), close := .none } } }

theorem test_launch_completion_meets :
    (launching (.passed desc)).isUp .s = true ∧ ((launching (.passed desc)).tx.get .s).launch ≠ none ∧
      (launch (.passed desc)).source.awaited = false ∧ (launch (.service (service false))).source.awaited = false ∧
      (launch .cadence).source.awaited = false ∧ (launch (.service (service true))).source.awaited = true := by
  decide +kernel

/-- A line down that cuts a class launch, and one that loses the reply of a RESET FULL. -/
theorem test_line_down_meets :
    let cut := { launching (.passed desc) with port := { n := up.port.n, s := upPort (received .body 30) 3 } }
    let awaited := { launching (.service (service true)) with port := { n := up.port.n, s := upPort Reception.none 3 } }
    (cut.port.get .s).line = .up ∧ (cut.port.get .s).errorCount = 3 ∧ cut.losesAwaited .s = false ∧
      (cut.tx.get .s).cls = some 2 ∧ (awaited.port.get .s).errorCount = 3 ∧ awaited.losesAwaited .s = true ∧
      (∀ s ∈ [cut, awaited], s.resetLow = false ∧ ¬ (s.port.get .s).rx.CompletesAt16 ∧
        ¬ (s.port.get .s).rx.CompletesAt64) := by
  simp only [Reception.CompletesAt16, Reception.CompletesAt64]
  decide +kernel

theorem test_residence_meets :
    let late := { deciding Cadence.powerOn [] [queued] with timebase := 1000000 }
    late.resetLow = false ∧ late.queue .s 2 = [queued] ∧
      overdue late.timebase (late.classPol .s 2).residence queued = true ∧
      overdue 999999 (late.classPol .s 2).residence queued = false := by
  decide +kernel

/-- Class 2 of Line S held by a window of one launch in 1000 µs, with a launch at time 0. -/
def held (now : Time) : State :=
  ({ up with
      timebase := now
      store := { TableStore.powerOn 0 with
        bankA := { Bank.generation0 0 with classpol := Vector.replicate 16 { openClassPol with ks := 1 } } } } :
    State).setQueue .s 2 [queued] |>.setLane .s 2 { history := [0], head := .held, release := some now }

theorem test_window_release_meets :
    ((held 1000).lane .s 2).release = some 1000 ∧ (held 1000).Allows .s 2 = true ∧
      (held 999).Allows .s 2 = false ∧ ((held 999).lane .s 2).head = .held ∧ (held 999).queue .s 2 ≠ [] ∧
      releaseTime 999 [0] { openClassPol with ks := 1 } = 1000 := by
  decide +kernel

/-- R104: at the reading at which its release is due, a decision taken first finds the head held and leaves the
release; a decision after the release launches it. -/
theorem test_decision_and_release_together :
    let s := { held 1000 with offers := { n := 0, s := 1 } }
    s.MayDecide .s ∧ s.NoEarlierCandidate .s ∧ s.AllowsDecision .s 2 = false ∧ s.Allows .s 2 = true ∧
      answers (exec (.egressDecision .s) s) (fun t => decide (t.tx = s.tx ∧ t.lane .s 2 = s.lane .s 2 ∧
        t.offers.get .s = 0)) = true ∧
      answers (exec (.windowRelease .s 2) s) (fun u => u.AllowsDecision .s 2 &&
        answers (exec (.egressDecision .s) u) (fun t => decide (t.queue .s 2 = [] ∧ t.txFree .s = false))) = true := by
  simp only [State.MayDecide, State.NoEarlierCandidate]
  decide +kernel

theorem test_earliest_release_meets :
    let pol : ClassPol := { openClassPol with ks := 2, kl := 1, wl := 50 }
    pol.ok = true ∧ windowAllows 100 [10, 60] pol = false ∧ age 100 (60 : Time) ≤ age 100 (10 : Time) ∧
      releaseTime 100 [10, 60] pol = 1010 := by
  decide +kernel

theorem test_ageing_meets :
    ((held 1000001).lane .s 2).history = [0] ∧ 0 + 1000001#32 = (held 1000001).timebase ∧
      (held 1000001).resetLow = false ∧ openClassPol.ok = true := by
  decide +kernel

/-- A cadence timer due now, with this owed list. -/
def expiring (owed : List Time) (forced : Bool) : State :=
  { up with
    cadence := { n := Cadence.powerOn, s := { timer := .running 0, owed := owed, forced := forced, seq := 0 } } }

theorem test_cadence_expiry_meets :
    ((expiring [] false).cadence.get .s).timer = .running (expiring [] false).timebase ∧
      ((expiring (List.replicate 7 0) false).portPol .s).dmax.toNat ≤ (List.replicate 7 (0 : Time)).length + 1 ∧
      (List.replicate 6 (0 : Time)).length + 1 < ((expiring [] false).portPol .s).dmax.toNat ∧
      8 ≤ ((expiring (List.replicate 8 0) true).cadence.get .s).owed.length := by
  decide +kernel

/-! ## Requests -/

def oneQuery : List Byte := [0x00#8, 0x01#8, 0x00#8, 0x00#8, 0x23#8, 0x00#8]

theorem test_request_meets :
    wordAt (request 6 oneQuery).frame 4 = reader.src ∧
      (halfAt (request 6 oneQuery).frame 12 - reader.lastSeq).toNat = 1 ∧
      parsePayload (payloadOf (request 6 oneQuery).frame) = some [{ code := 0x23#8, ops := [] }] ∧
      parsePayload (payloadOf (request 6 [0x01#8, 0x00#8]).frame) = none ∧
      (halfAt (request 0x8006 oneQuery).frame 12 - reader.lastSeq).toNat = 32769 ∧
      (asked (some reader) (request 6 oneQuery)).serviceTakes .n = true ∧
      (asked (some reader) (request 6 oneQuery)).contexts[(0 : Fin 4)] = some reader ∧
      (asked none (request 6 oneQuery)).contexts[(0 : Fin 4)] = none := by
  decide +kernel

/-- Four contexts in use, of which context 2 is the EDITOR and the least recently active: context 1 goes. -/
def crowded : State :=
  { asked none (request 6 oneQuery) with
    contexts := #v[some { reader with src := 1 }, some { reader with src := 2 }, some { editor with src := 3 },
      some { reader with src := 4 }]
    recency := [0, 3, 1, 2] }

theorem test_eviction_meets :
    (∀ j : Fin 4, crowded.contexts[j].isSome = true) ∧ crowded.isEditor 1 = false ∧
      crowded.recency = [0, 3] ++ 1 :: [2] ∧ crowded.isEditor 2 = true ∧ crowded.evictable = some 1 ∧
      crowded.findContext 0xA10 .n = none := by
  decide +kernel

/-- A malformed request of a known key, of a stranger that finds a FREE context, and of one that evicts a READER. -/
theorem test_context_given_meets :
    let r := request 6 [0x01#8, 0x00#8]
    let given := { reader with lastSeq := 6, reply := none }
    (asked (some reader) r).GivesContext r 0 { reader with lastSeq := 6 } ∧ (asked none r).GivesContext r 0 given ∧
      crowded.GivesContext r 1 given ∧ parsePayload (payloadOf r.frame) = none := by
  refine ⟨.inl ⟨reader, by decide +kernel⟩, .inr ⟨fun j => ?_, .inl (by decide +kernel), by decide +kernel⟩,
    .inr ⟨fun j => ?_, .inr ⟨by decide +kernel, by decide +kernel, [0, 3], [2], by decide +kernel⟩, by decide +kernel⟩,
    by decide +kernel⟩
  · have none : ∀ k : Fin 4, (asked none (request 6 [0x01#8, 0x00#8])).contexts[k] = none := by decide +kernel
    exact fun d h => absurd (h.symm.trans (none j)) (by simp)
  · have other : ∀ k : Fin 4, ∀ d ∈ crowded.contexts[k], d.src ≠ 0xA10#32 := by decide +kernel
    exact fun d h => .inl (by
      have e : wordAt (request 6 [0x01#8, 0x00#8]).frame 4 = 0xA10#32 := by decide +kernel
      exact e ▸ other j d h)

/-- A service queue that takes no reply, since it holds four entries already. -/
theorem test_lost_reply_meets :
    let s := { asked (some reader) (request 6 oneQuery) with
      service := { n := List.replicate 4 (service false), s := [] } }
    s.serviceTakes .n = false ∧ s.agent.hand = .taken (request 6 oneQuery) ∧
      s.contexts[(0 : Fin 4)] = some reader := by
  decide +kernel

/-- A duplicate, which finds the stored reply, and a stale request. -/
theorem test_repeated_request_meets :
    halfAt (request 5 oneQuery).frame 12 = reader.lastSeq ∧ reader.reply = some [] ∧
      (asked (some reader) (request 5 oneQuery)).agent.hand = .taken (request 5 oneQuery) ∧
      wordAt (request 5 oneQuery).frame 4 = reader.src ∧ (request 5 oneQuery).line = reader.line ∧
      32768 < (halfAt (request 0x8006 oneQuery).frame 12 - reader.lastSeq).toNat := by
  decide +kernel

/-- R128: a WAITING agent takes an appended request at once; a busy one leaves it in the queue. R127: with four
waiting, an offer after the take finds three. -/
theorem test_request_taken_at_once :
    let r := request 6 oneQuery
    let waits : State :=
      { up with agent := { state := .executing, queue := List.replicate 4 r, hand := .request (inHand []) } }
    (offerRequest .n r.frame up).agent = { state := .executing, queue := [], hand := .taken r } ∧
      (offerRequest .n r.frame (asked none r)).agent = { state := .executing, queue := [r], hand := .taken r } ∧
      (offerRequest .n r.frame waits).agent.queue.length = 4 ∧
      (offerRequest .n r.frame (nextRequest waits)).agent =
        { state := .executing, queue := List.replicate 4 r, hand := .taken r } := by
  decide +kernel

theorem test_reply_meets :
    (inHand []).toRun = [] ∧ (running reader []).agent.hand = .request (inHand []) ∧
      (running reader []).contexts[(inHand []).ctx] = some reader ∧ (running reader []).serviceTakes .n = true ∧
      ({ running reader [] with port := (State.powerOn 0).port } : State).serviceTakes .n = false := by
  decide +kernel

/-- The reply of a request that ran RESET FULL, with its line UP and with its line DOWN. -/
theorem test_full_reply_meets :
    let h := { inHand [] with full := true }
    let s := { running reader [] with agent := { state := .executing, queue := [], hand := .request h } }
    h.toRun = [] ∧ h.full = true ∧ s.contexts[h.ctx] = some reader ∧ s.serviceTakes h.line = true ∧
      ({ s with port := (State.powerOn 0).port } : State).serviceTakes h.line = false := by
  decide +kernel

theorem test_odd_commands_meet :
    (0x77#8 : Byte) ∉ commandCodes ∧ oddStatus { code := 0x30#8, ops := [0x03#8] } = some .badValue ∧
      oddStatus { code := 0x30#8, ops := [] } = some .badValue ∧
      (running reader [{ code := 0x77#8, ops := [] }]).agent.state = .executing := by
  decide +kernel

/-! ## Commands -/

/-- OPEN: the EDITOR's own, another's, while a revert runs, and granted; and the lease at its bounds. -/
theorem test_open_meets :
    (running editor []).editor = some 0 ∧ (running reader []).editor = none ∧ crowded.editor = some 2 ∧
      ({ running reader [] with store := { TableStore.powerOn 0 with phase := .refilling 0 } } : State).store.phase ≠
        .steady ∧
      leaseOk 9 = false ∧ leaseOk 10 = true ∧ leaseOk 60000 = true ∧ leaseOk 60001 = false ∧ leaseOk 0 = true := by
  decide +kernel

/-- OPEN with lease 0 makes the context EDITOR with the default lease of 30 s. -/
theorem test_open_default_lease :
    answers (exec (.openSession [0x00#8, 0x00#8]) (running reader [{ code := codeOpen, ops := [0x00#8, 0x00#8] }]))
      (fun t => decide (t.contexts[(0 : Fin 4)] = some { reader with role := .editor 3000 (.running 30000000) } ∧
        t.agent.hand = .request
          { inHand [] with results := [{ code := 0x01#8, status := .ok, data := bytes16 3000 }] })) = true := by
  decide +kernel

theorem test_roles_meet :
    (running reader []).isEditor 0 = false ∧ (running editor []).isEditor 0 = true ∧
      (running editor []).contexts[(inHand []).ctx] = some editor ∧ editor.role = .editor 10 (.running 100000) ∧
      (dirty (running editor [])).store.dirty = true ∧ (running editor []).store.dirty = false := by
  decide +kernel

/-- The commands with a wrong operand length, each in hand as the next one. -/
theorem test_operand_form_meets :
    let meets := fun (code : Byte) (ops : List Byte) =>
      (running reader [{ code := code, ops := ops }]).Running (inHand [{ code := code, ops := ops }]) code ops
    meets 0x10#8 [] ∧ meets 0x20#8 [0] ∧ meets 0x21#8 [] ∧ meets 0x22#8 [] ∧ meets 0x23#8 [0] :=
  ⟨running_runs _ _ _, running_runs _ _ _, running_runs _ _ _, running_runs _ _ _, running_runs _ _ _⟩

/-- RD: the checks at their boundaries, a list that fits and one that does not. -/
theorem test_read_meets :
    TableId.ofCode 0x08#8 = none ∧ TableId.ofCode 0x04#8 = some .flowmap ∧ TableId.flowmap.entries = 0 + 1024 ∧
      TableId.flowmap.entries < 1 + 1024 ∧ resultRoom (inHand [{ code := codeRd, ops := [] }]) = 998 ∧
      (((List.range 998).map fun k => (Bank.generation0 0).entryBytes .flowmap k).map List.length).sum = 998 := by
  decide +kernel

/-- WR and FILL: forms, tables, indexes and fields at their boundaries. -/
theorem test_write_meets :
    entryFormOk 3 [0x04#8, 0x00#8, 0x09#8, 0x03#8] = true ∧ entryFormOk 3 [0x04#8, 0x00#8, 0x09#8] = false ∧
      entryFormOk 3 [0x08#8, 0x00#8, 0x09#8] = true ∧ TableId.flowmap.entries ≤ 1024 ∧
      ((Bank.generation0 0).write .flowmap 9 [0x07#8]).isSome = true ∧
      (Bank.generation0 0).write .flowmap 9 [0x08#8] = none ∧ entryFormOk 1 [0x04#8, 0x07#8] = true ∧
      entryFormOk 1 [0x04#8] = false ∧ ((Bank.generation0 0).write .flowmap 0 [0x07#8]).isSome = true := by
  decide +kernel

/-- WR of FLOWMAP 9 stages class 3 and leaves the active bank. -/
theorem test_write_stages :
    let ops := [0x04#8, 0x00#8, 0x09#8, 0x03#8]
    answers (exec (.wr ops) (running editor [{ code := codeWr, ops := ops }])) (fun t => decide (
        t.store.stagingBank.flowmap[(9 : Fin 1024)] = 3 ∧ t.store.activeBank.flowmap[(9 : Fin 1024)] = 0 ∧
        t.store.dirty = true)) = true := by
  decide +kernel

/-- WR of RULES that ends before its index, and WR with no operand byte. -/
theorem test_short_write_meets :
    TableId.ofCode 0x03#8 = some .rules ∧ entryFormOk 3 [0x03#8, 0x00#8] = true ∧ entryFormOk 3 [] = false ∧
      entryFormOk 3 [0x01#8] = false ∧ entryFormOk 3 [0x09#8] = true ∧ entryFormOk 1 [] = false := by
  decide +kernel

theorem test_commit_meets :
    (dirty (running editor [])).store.stagingBank.commitOk = true ∧
      ({ stationBank with devpol := { openDevPol with admission := .listed } } : Bank).commitOk = false ∧
      ({ stationBank with devpol := { openDevPol with target := some { line := .n, station := 0x3C000000#32 } } } :
        Bank).commitOk = false := by
  decide +kernel

theorem test_copy_back_meets :
    let role := Role.editor 10 (.paused 60000)
    let s := { running { editor with role := role } [{ code := codeCommit, ops := [] }] with
      store := { TableStore.powerOn 0 with phase := .refilling 0, dirty := true } }
    let waiting := { s with agent := { s.agent with state := .commitWait } }
    s.store.phase = .refilling 0 ∧ s.agent.state ≠ .commitWait ∧ s.resetLow = false ∧
      waiting.agent.state = .commitWait ∧
      waiting.agent.hand = .request (inHand [{ code := codeCommit, ops := [] }]) ∧
      waiting.contexts[(0 : Fin 4)] = some { editor with role := role } ∧
      editor.role.pause 40000 = role := by
  decide +kernel

/-- STAT: groups, selectors and clear flags at their boundaries. -/
theorem test_stat_meets :
    statTarget 0x05#8 0x00#8 = none ∧ statTarget 0x01#8 0x10#8 = some none ∧
      statTarget 0x01#8 0x0F#8 = some (some (.egress .s 7)) ∧ statTarget 0x04#8 0x01#8 = some none ∧
      statTarget 0x03#8 0x00#8 = some (some .hits) ∧
      ((Counters.zero.group (.arrival .n)).map fun k => k.bytes.length).sum = 58 ∧
      ((Counters.zero.group .hits).map fun k => k.bytes.length).sum = 168 := by
  decide +kernel

theorem test_capture_commands_meet :
    slotOperand 0x03#8 = some 3 ∧ slotOperand 0x04#8 = none ∧ (filling.capture.slot 0).isEmpty = true ∧
      (filling.capture.slot 1).isEmpty = false ∧ 17 + 128 ≤ resultRoom (inHand [{ code := codeCapt, ops := [0] }]) := by
  decide +kernel

def record : CaptureRecord :=
  { arrival := .n, start := 0, generation := 0, trigger := .rule 0, total := 20, outcome := .pass 0 }

/-- A HELD slot, and results that leave room for its bytes, for its record only, or for neither. -/
theorem test_capture_held_meets :
    let s := { running reader [] with capture := CaptureStore.empty.setSlot 3 (.held record [0x01#8]) }
    let after := fun n => { inHand [{ code := codeCapt, ops := [0x03#8] }] with
      results := [{ code := codeRd, status := .ok, data := List.replicate n 0x00#8 }] }
    s.capture.slot 3 = .held record [0x01#8] ∧ resultRoom (after 976) = 18 ∧ resultRoom (after 977) = 17 ∧
      resultRoom (after 990) = 4 ∧ resultRoom (after 994) = 0 := by
  decide +kernel

/-- QUERY with its last section to read, and with no room for its first. -/
theorem test_query_meets :
    let h := { inHand [{ code := codeQuery, ops := [] }] with sections := List.replicate 8 [] }
    let full := { inHand [{ code := codeQuery, ops := [] }] with
      results := [{ code := codeRd, status := .ok, data := List.replicate 990 0x00#8 }] }
    h.sections.flatten.length + ((running editor []).querySection h.sections.length).length ≤ resultRoom h ∧
      h.sections.length = 8 ∧
      resultRoom full < full.sections.flatten.length +
        ((running editor []).querySection full.sections.length).length := by
  decide +kernel

/-- QUERY returns 112 bytes in nine sections. -/
theorem test_query_sections :
    (List.range 9).map (fun n => ((running editor []).querySection n).length) = [6, 2, 64, 4, 2, 24, 4, 2, 4] := by
  decide +kernel

/-- RESET TRAFFIC flushes a queued frame and returns its cell. -/
theorem test_reset_traffic :
    let s := { (running reader [{ code := codeReset, ops := [0x01#8] }]).setQueue .s 2 [queued] with
      pool := { free := 1023, used := { n := 0, s := 1 }, armed := true } }
    answers (exec .resetTraffic s) (fun t => decide (
        t.queue .s 2 = [] ∧ t.pool.free = 1024 ∧ (t.counters.read (.egress .s 2 .flush)).toNat = 1)) = true := by
  decide +kernel

theorem test_lease_meets :
    let s := { running editor [] with timebase := 100000 }
    s.contexts[(0 : Fin 4)] = some editor ∧ editor.role = .editor 10 (.running s.timebase) ∧
      s.leaseDue 0 = some s.timebase ∧ s.active.devpol.target = none := by
  decide +kernel

/-- A notice target whose service queue is full. -/
theorem test_lost_notice_meets :
    let target : NoticeTarget := { line := .n, station := 0x77#32 }
    let s := { running editor [] with
      timebase := 100000, service := { n := List.replicate 4 (service false), s := [] }
      store := { TableStore.powerOn 0 with
        bankA := { Bank.generation0 0 with devpol := { openDevPol with target := some target } } } }
    s.leaseDue 0 = some s.timebase ∧ s.active.devpol.target = some target ∧ s.serviceTakes .n = false := by
  decide +kernel

/-- A CADENCE_SLIP notice frame, built and taken: Tables 10-5 and 11-7 byte by byte. -/
theorem test_notice_frame :
    let target : NoticeTarget := { line := .n, station := 0x77#32 }
    let s := { expiring (List.replicate 8 0) true with
      store := { TableStore.powerOn 0 with
        bankA := { Bank.generation0 0 with devpol := { openDevPol with target := some target } } } }
    s.active.devpol.target = some target ∧ s.serviceTakes .n = true ∧
      answers (exec (.cadenceExpiry .s) s) (fun t => decide (t.noticeSeq = 1 ∧ (t.service.get .n).map (·.frame) =
        [[0x00#8, 0x00#8, 0x00#8, 0x77#8, 0x3C#8, 0x00#8, 0x00#8, 0x00#8, 0x12#8, 0x40#8, 0x00#8, 0x00#8, 0x00#8,
          0x01#8, 0x00#8, 0x0C#8, 0x03#8, 0x01#8, 0x08#8, 0x00#8, 0x00#8, 0x00#8, 0x00#8, 0x00#8, 0x00#8, 0x00#8,
          0x00#8, 0x00#8]])) = true := by
  decide +kernel

/-! ## Invariants -/

/-- A frame in reception and a frame QUEUED, both bound for class 2 of Line S; an EDITOR; a debt of 1. -/
def busy : State :=
  { (upWith (wholeFrame .body) (carrying desc)).setQueue .s 2 [queued] |>.setLane .s 2
      { history := [0], head := .eligible, release := none } with
    pool := { free := 1022, used := { n := 0, s := 2 }, armed := true }
    cadence := { n := Cadence.powerOn, s := { Cadence.powerOn with owed := [7] } }
    service := { n := [], s := [service false] }
    contexts := (Vector.replicate 4 none).set 0 (some editor), recency := [0] }

theorem test_frames_inv_meets : busy.FramesInv := by
  refine ⟨fun l => ?_, fun m h => ?_, by decide +kernel, fun e => ?_⟩
  · simp only [State.Follows]
    cases l <;> decide +kernel
  · have e : busy.store.phase = .steady := rfl
    rw [e] at h
    exact absurd h (by simp)
  · cases e <;> decide +kernel

theorem test_store_inv_meets : busy.StoreInv ∧ busy.SessionInv := by
  have phase : busy.store.phase = .steady := rfl
  have waits : busy.agent.state = .waiting := rfl
  refine ⟨⟨fun _ _ => rfl, fun h => absurd phase h⟩, by decide +kernel, fun _ => rfl, by decide +kernel,
    fun _ _ _ => phase, fun h => ?_,
    fun _ _ => ⟨0, rfl⟩⟩
  rw [waits] at h
  exact absurd h (by simp)

theorem test_entries_pass : (Bank.generation0 0).EntriesOk := by
  simp only [Bank.EntriesOk]
  refine ⟨by decide +kernel, by decide +kernel, by decide +kernel, fun p => ?_, by decide +kernel⟩
  cases p <;> decide +kernel

/-- A COMMIT of DIRTY staging whose entries pass their checks. -/
theorem test_commit_entries_meet :
    (dirty (running editor [{ code := codeCommit, ops := [] }])).EntriesInv ∧
      (dirty (running editor [{ code := codeCommit, ops := [] }])).HeadsInv ∧
      (dirty (running editor [{ code := codeCommit, ops := [] }])).isEditor 0 = true := by
  refine ⟨⟨test_entries_pass, test_entries_pass⟩, ?_, rfl⟩
  intro p
  cases p <;> decide +kernel

theorem test_cadence_inv_meets : busy.EntriesInv ∧ ∀ p, busy.CadenceInv p := by
  refine ⟨⟨test_entries_pass, test_entries_pass⟩, fun p => ?_⟩
  simp only [State.CadenceInv]
  cases p <;> decide +kernel

/-- A timer that runs on an UP line whose Tc is 50. -/
theorem test_running_timer_meets :
    let s := { up with
      cadence := { n := Cadence.powerOn, s := { Cadence.powerOn with timer := .running 50 } }
      store := { TableStore.powerOn 0 with
        bankA := { Bank.generation0 0 with portpol := { n := openPortPol, s := { openPortPol with tc := 50 } } } } }
    ∀ p, s.CadenceInv p := by
  intro s p
  simp only [State.CadenceInv]
  cases p <;> decide +kernel

theorem test_bounds_inv_meets : busy.BoundsInv ∧ busy.QuietInv := by
  refine ⟨⟨fun p => ?_, by decide +kernel, fun p => ?_, fun p => ?_, fun k r bs h => ?_⟩, fun p h => ?_⟩
  · cases p <;> decide +kernel
  · cases p <;> decide +kernel
  · cases p <;> decide +kernel
  · have e : ∀ j, busy.capture.slot j = .empty := by decide +kernel
    rw [e k] at h
    exact absurd h (by simp)
  · cases p <;> exact absurd h (by decide +kernel)

/-- A DRAINING frame with the one FILLING slot. -/
theorem test_capture_inv_meets : filling.FramesInv ∧ filling.CaptureInv := by
  have slots : ∀ l k, (filling.cls.get l).slot = some k → l = .n ∧ k = 1 := fun l => by cases l <;> decide +kernel
  have others : ∀ k : Fin 4, k ≠ 1 → filling.capture.slot k = .empty := by decide +kernel
  refine ⟨⟨fun l => ?_, fun m h => ?_, by decide +kernel, fun e => ?_⟩, fun l k h => ?_, fun k r bs h => ?_,
    fun l k h => ?_, by decide +kernel, by decide +kernel⟩
  · simp only [State.Follows]
    cases l <;> decide +kernel
  · have e : filling.store.phase = .steady := rfl
    rw [e] at h
    exact absurd h (by simp)
  · cases e <;> decide +kernel
  · obtain ⟨rfl, rfl⟩ := slots l k h
    exact ⟨_, _, test_slot_filling_meets.2.2.2, rfl⟩
  · by_cases e : k = 1
    · subst e
      rw [test_slot_filling_meets.2.2.2] at h
      cases h
      decide +kernel
    · rw [others k e] at h
      exact absurd h (by simp)
  · obtain ⟨rfl, rfl⟩ := slots l k h
    decide +kernel

theorem test_contexts_inv_meets : busy.ContextsInv := by
  refine ⟨by decide +kernel, by decide +kernel, fun i j c d hi hj _ _ => ?_⟩
  have only : ∀ k : Fin 4, k ≠ 0 → busy.contexts[k] = none := by decide +kernel
  have zero : ∀ (k : Fin 4) (x : Context), busy.contexts[k] = some x → k = 0 := fun k x h =>
    Decidable.byContradiction fun n => by simp [only k n] at h
  rw [zero i c hi, zero j d hj]

theorem test_queues_inv_meets : busy.QueuesInv ∧ busy.HeadsInv := by
  refine ⟨⟨fun p c => ?_, fun l d h => ?_⟩, fun p c => ?_⟩
  · simp only [Descriptor.Fits]
    cases p <;> revert c <;> decide +kernel
  · have n : (busy.cls.get .n).reservation = some desc := rfl
    have s : (busy.cls.get .s).reservation = none := rfl
    cases l
    · rw [n] at h
      obtain rfl := Option.some.inj h
      simp only [Descriptor.Fits]
      decide +kernel
    · rw [s] at h
      exact absurd h (by simp)
  · cases p <;> revert c <;> decide +kernel

theorem test_empty_state_steps : step State.reset = .next { State.reset with timebase := 1 } := by
  have h : State.reset.due = [] := by decide +kernel
  simp only [step, idle, State.nextDue, State.reset]
  have : (State.powerOn 0).due = [] := h
  simp only [State.powerOn] at this ⊢
  rw [this]
  rfl

end Sys2Proof.Tests
end

section
/-! SUPPORT. The counters read after an addition, and the counters that a change may move. -/

namespace Sys2Proof.Machine

/-! ## Counters read after additions (R169) -/

theorem Counter.add_add (k : Counter) (m n : Nat) : (k.add m).add n = k.add (m + n) := by
  cases k with
  | frame v =>
    simp only [Counter.add, BitVec.toNat_ofNat, Counter.frame.injEq]
    congr 1
    omega
  | octet v =>
    simp only [Counter.add, BitVec.toNat_ofNat, Counter.octet.injEq]
    congr 1
    omega

theorem ArrivalCounter.index_inj {j k : ArrivalCounter} : j.index = k.index ↔ j = k := by
  cases j <;> cases k <;> simp [ArrivalCounter.index]

theorem ClassCounter.index_inj {j k : ClassCounter} : j.index = k.index ↔ j = k := by
  cases j <;> cases k <;> simp [ClassCounter.index]

theorem LineCounter.index_inj {j k : LineCounter} : j.index = k.index ↔ j = k := by
  cases j <;> cases k <;> simp [LineCounter.index]

theorem CaptureCounter.index_inj {j k : CaptureCounter} : j.index = k.index ↔ j = k := by
  cases j <;> cases k <;> simp [CaptureCounter.index]

/-- The hit counters lie in three ranges of their group: 0 to 30, 31 to 38, and three single ones. -/
theorem HitCounter.index_inj {j k : HitCounter} : j.index = k.index ↔ j = k := by
  refine ⟨fun h => ?_, congrArg _⟩
  have h := congrArg Fin.val h
  cases j <;> cases k <;> simp [HitCounter.index, Fin.ext_iff] at h ⊢ <;> omega

/-- Row `i` of a group of counters after one counter of row `c` has moved. -/
theorem getElem_set_row {α : Type} {n : Nat} (v : Vector α n) (c i : Fin n) (x : α) :
    (v.set c.val x c.isLt)[i] = if i = c then x else v[i] := by
  show (v.set c.val x c.isLt)[i.val] = _
  rw [Vector.getElem_set]
  simp [Fin.ext_iff, eq_comm]

theorem bump_read {k : Nat} (v : Vector Counter k) (i j : Fin k) (n : Nat) :
    (bump v i n)[j] = if j = i then v[j].add n else v[j] := by
  rw [bump_get]
  split
  · rename_i h
    rw [h]
  · rfl

/-- One counter of one line's group after one counter of a line's group has moved. -/
theorem bump_line_read {k : Nat} (x : PerLine (Vector Counter k)) (l l' : Line) (i j : Fin k) (n : Nat) :
    ((x.set l (bump (x.get l) i n)).get l')[j] =
      if l' = l ∧ j = i then (x.get l')[j].add n else (x.get l')[j] := by
  by_cases h : l' = l
  · subst h
    rw [PerLine.get_set_same, bump_read]
    simp only [true_and]
  · rw [PerLine.get_set_ne _ _ _ _ h]
    simp only [h, false_and, if_false]

/-- The same for the groups of a line, one for each class. -/
theorem bump_class_read (x : PerLine (Vector (Vector Counter 9) 8)) (l l' : Line) (c c' : TrafficClass) (i j : Fin 9)
    (n : Nat) :
    ((x.set l ((x.get l).set c.val (bump (x.get l)[c] i n) c.isLt)).get l')[c'][j] =
      if l' = l ∧ c' = c ∧ j = i then (x.get l')[c'][j].add n else (x.get l')[c'][j] := by
  by_cases h : l' = l
  · subst h
    rw [PerLine.get_set_same, getElem_set_row]
    by_cases hc : c' = c
    · subst hc
      rw [if_pos rfl, bump_read]
      simp only [true_and]
    · simp only [hc, if_false, false_and, and_false]
  · rw [PerLine.get_set_ne _ _ _ _ h]
    simp only [h, false_and, if_false]

/-- R169: an addition moves the counter it names and no other. -/
theorem Counters.read_add (b : Counters) (id id' : CounterId) (n : Nat) :
    (b.add id n).read id' = if id' = id then (b.read id').add n else b.read id' := by
  cases id <;> cases id'
  case arrival.arrival l k l' k' =>
    exact (bump_line_read b.arrival l l' k.index k'.index n).trans
      (by simp only [ArrivalCounter.index_inj, CounterId.arrival.injEq, Counters.read])
  case egress.egress l c k l' c' k' =>
    exact (bump_class_read b.egress l l' c c' k.index k'.index n).trans
      (by simp only [ClassCounter.index_inj, CounterId.egress.injEq, Counters.read])
  case line.line l k l' k' =>
    exact (bump_line_read b.line l l' k.index k'.index n).trans
      (by simp only [LineCounter.index_inj, CounterId.line.injEq, Counters.read])
  case hit.hit k k' =>
    exact (bump_read b.hits k.index k'.index n).trans
      (by simp only [HitCounter.index_inj, CounterId.hit.injEq, Counters.read])
  case capture.capture k k' =>
    exact (bump_read b.capture k.index k'.index n).trans
      (by simp only [CaptureCounter.index_inj, CounterId.capture.injEq, Counters.read])
  all_goals exact (if_neg nofun).symm

theorem Counters.read_add_same (b : Counters) (id : CounterId) (n : Nat) :
    (b.add id n).read id = (b.read id).add n := by
  rw [Counters.read_add, if_pos rfl]

theorem Counters.read_add_ne (b : Counters) {id id' : CounterId} (n : Nat) (h : id' ≠ id) :
    (b.add id n).read id' = b.read id' := by
  rw [Counters.read_add, if_neg h]

/-! ## The counters that a change may move -/

namespace State.CountsOnly

variable {s t u : State} {moved moved' : CounterId → Prop}

theorem of_eq (h : t.counters = s.counters) : s.CountsOnly t moved := fun _ _ => by rw [h]

theorem trans (h : s.CountsOnly t moved) (k : t.CountsOnly u moved) : s.CountsOnly u moved :=
  fun id n => (k id n).trans (h id n)

theorem mono (h : s.CountsOnly t moved) (wider : ∀ id, moved id → moved' id) : s.CountsOnly t moved' :=
  fun id n => h id fun m => n (wider id m)

/-- One addition more, to a counter that may move. -/
theorem add (h : s.CountsOnly t moved) {id : CounterId} {n : Nat} (m : moved id)
    (e : u.counters = t.counters.add id n) : s.CountsOnly u moved := fun id' k => by
  have other : id' ≠ id := fun r => k (by rwa [r])
  rw [e, Counters.read_add_ne _ _ other, h id' k]

end State.CountsOnly

end Sys2Proof.Machine
end

section
/-! SUPPORT. What one step can be: a tick, a pin event, or one act of a block, said once for every invariant. -/

namespace Sys2Proof.Machine

/-! ## The acts of an exec -/

/-- The meaning of a row that is a management command: what the agent makes of it for the request in hand. -/
def commandMeaning : Instr → Option (InHand → State → State)
  | .openSession ops => some (withForm 2 ops (openWith (halfAt ops 0)))
  | .closeSession ops => some (editorOnly (withForm 0 ops closeNow))
  | .rd ops => some (withForm 6 ops (readTable ops))
  | .wr ops => some (editorOnly (writeEntry ops))
  | .fill ops => some (editorOnly (fillTable ops))
  | .commit ops => some (editorOnly (withForm 0 ops commitNow))
  | .revert ops => some (editorOnly (withForm 0 ops revertNow))
  | .stat ops => some (withForm 3 ops (statNow ops))
  | .capt ops => some (withForm 1 ops (captNow ops))
  | .free ops => some (withForm 1 ops (freeNow ops))
  | .query ops => some (withForm 0 ops queryNow)
  | .resetCounters => some clearCounters
  | .resetTraffic => some clearTraffic
  | .resetFull => some askFullReset
  | _ => none

/-- What an awake part can do in one exec, other than nothing: one constructor for each kind of event. -/
inductive Act (s : State) : State → Prop
  | symbol (l : Line) (sym : Symbol) : Act s (receive l sym s)
  | decision (p : Line) (up : s.isUp p = true) (free : s.txFree p = true) : Act s (decideOffer p s)
  | completion (p : Line) (x : Launch) (busy : (s.tx.get p).launch = some x) : Act s (completeLaunch p x s)
  | residence (p : Line) (c : TrafficClass) : Act s (checkHead p c s)
  | release (p : Line) (c : TrafficClass) (due : (s.lane p c).release = some s.timebase) :
      Act s (evaluateOffer p c s)
  | ageing (p : Line) (c : TrafficClass) (due : ageingDue (s.lane p c).history = some s.timebase) :
      Act s (s.setLane p c { s.lane p c with history := (s.lane p c).history.drop 1 })
  | cadence (p : Line) (due : (s.cadence.get p).timer = .running s.timebase) : Act s (cadenceExpire p s.timebase s)
  | take (r : Request) (executing : s.agent.state = .executing) (inHand : s.agent.hand = .taken r) :
      Act s (takeRequest r s)
  | goOn (h : InHand) (executing : s.agent.state = .executing) (inHand : s.agent.hand = .request h) : Act s (goOn h s)
  | command (i : Instr) (f : InHand → State → State) (h : InHand) (means : commandMeaning i = some f)
      (executing : s.agent.state = .executing) (inHand : s.agent.hand = .request h) : Act s (f h s)
  | copy (begun : Time) (refilling : s.store.phase = .refilling begun) : Act s (copyDone s)
  | lease (i : Fin 4) (editor : s.editor = some i) (due : s.leaseDue i = some s.timebase) : Act s (expireLease i s)

/-- A state is left by one exec: as it stands, by a pin event, or by an act of the awake part. -/
inductive Leaves (s : State) : State → Prop
  | still : Leaves s s
  | low : Leaves s { powerOnFrom s.straps s with resetLow := true }
  | rise (straps : BitVec 6) (wasLow : s.resetLow = true) : Leaves s (powerOnFrom straps s)
  | act {t : State} (awake : s.resetLow = false) (a : Act s t) : Leaves s t

theorem leaves_awake {f : State → State} {s : State} (h : s.resetLow = false → f s = s ∨ Act s (f s)) :
    Leaves s (awake f s) := by
  cases low : s.resetLow with
  | true =>
    rw [awake_low s f low]
    exact .still
  | false =>
    rw [awake_eq s f low]
    rcases h low with e | a
    · rw [e]
      exact .still
    · exact .act low a

/-- A row that is a management command is its meaning, where its command is the next of the request in hand. -/
theorem exec_command {i : Instr} {f : InHand → State → State} (means : commandMeaning i = some f) (s : State) :
    ∃ code ops, exec i s = .next (awake (runCommand code ops f) s) := by
  cases i with
  | openSession _ | closeSession _ | rd _ | wr _ | fill _ | commit _ | revert _ | stat _ | capt _ | free _ | query _
  | resetCounters | resetTraffic | resetFull =>
    obtain rfl := Option.some.inj means
    exact ⟨_, _, rfl⟩
  | resetnAssert | resetnRelease _ | symbolReceived _ _ | egressDecision _ | launchCompletion _ | residenceExpiry _ _
  | windowRelease _ _ | ageingEvent _ _ | cadenceExpiry _ | requestTake | copyBackCompletion | leaseExpiry =>
    exact absurd means (by simp [commandMeaning])

theorem command_leaves {i : Instr} {f : InHand → State → State} {s t : State} (means : commandMeaning i = some f)
    (h : exec i s = .next t) : Leaves s t := by
  obtain ⟨code, ops, e⟩ := exec_command means s
  obtain rfl := Host.Outcome.next.inj (e.symm.trans h)
  refine leaves_awake fun _ => ?_
  obtain k | ⟨hand, executing, inHand, -, k⟩ := runCommand_cases s code ops f
  · exact .inl k
  · exact .inr (k.symm ▸ .command i f hand means executing inHand)

theorem leaves_when {c : Prop} [Decidable c] {s t : State} (h : c → Act s t) :
    (if c then t else s) = s ∨ Act s (if c then t else s) := by
  split
  · exact .inr (h ‹c›)
  · exact .inl rfl

theorem requestTake_leaves (s : State) {t : State} (h : execRequestTake s = .next t) : Leaves s t := by
  obtain rfl := Host.Outcome.next.inj h
  refine leaves_awake fun _ => ?_
  split
  · exact .inr (.take _ ‹_› ‹_›)
  · exact .inr (.goOn _ ‹_› ‹_›)
  · exact .inl rfl

theorem cadenceExpiry_leaves (p : Line) (s : State) {t : State} (h : execCadenceExpiry p s = .next t) :
    Leaves s t := by
  obtain rfl := Host.Outcome.next.inj h
  refine leaves_awake fun _ => ?_
  split
  · rename_i due running
    refine leaves_when fun now => ?_
    subst now
    exact .cadence p running
  · exact .inl rfl

theorem launchCompletion_leaves (p : Line) (s : State) {t : State} (h : execLaunchCompletion p s = .next t) :
    Leaves s t := by
  obtain rfl := Host.Outcome.next.inj h
  refine leaves_awake fun _ => ?_
  split
  · exact .inr (.completion p _ ‹_›)
  · exact .inl rfl

theorem copyBackCompletion_leaves (s : State) {t : State} (h : execCopyBackCompletion s = .next t) : Leaves s t := by
  obtain rfl := Host.Outcome.next.inj h
  refine leaves_awake fun _ => ?_
  split
  · exact .inr (.copy _ ‹_›)
  · exact .inl rfl
  · exact .inl rfl

theorem leaseExpiry_leaves (s : State) {t : State} (h : execLeaseExpiry s = .next t) : Leaves s t := by
  obtain rfl := Host.Outcome.next.inj h
  refine leaves_awake fun _ => ?_
  split
  · exact leaves_when fun due => .lease _ ‹_› due
  · exact .inl rfl

/-- Every exec leaves the state in one of these ways. -/
theorem exec_leaves {i : Instr} {s t : State} (h : exec i s = .next t) : Leaves s t := by
  cases i with
  | resetnAssert =>
    obtain rfl := Host.Outcome.next.inj h
    exact .low
  | resetnRelease straps =>
    obtain rfl := Host.Outcome.next.inj h
    split
    · exact .rise straps ‹_›
    · exact .still
  | symbolReceived l sym =>
    obtain rfl := Host.Outcome.next.inj h
    exact leaves_awake fun _ => .inr (.symbol l sym)
  | egressDecision p =>
    obtain rfl := Host.Outcome.next.inj h
    refine leaves_awake fun _ => leaves_when fun may => ?_
    simp only [Bool.and_eq_true] at may
    obtain ⟨⟨up, free⟩, -⟩ := may
    exact .decision p up free
  | launchCompletion p => exact launchCompletion_leaves p s h
  | residenceExpiry p c =>
    obtain rfl := Host.Outcome.next.inj h
    exact leaves_awake fun _ => .inr (.residence p c)
  | windowRelease p c =>
    obtain rfl := Host.Outcome.next.inj h
    exact leaves_awake fun _ => leaves_when (.release p c)
  | ageingEvent p c =>
    obtain rfl := Host.Outcome.next.inj h
    exact leaves_awake fun _ => leaves_when (.ageing p c)
  | cadenceExpiry p => exact cadenceExpiry_leaves p s h
  | requestTake => exact requestTake_leaves s h
  | copyBackCompletion => exact copyBackCompletion_leaves s h
  | leaseExpiry => exact leaseExpiry_leaves s h
  | openSession ops | closeSession ops | rd ops | wr ops | fill ops | commit ops | revert ops | stat ops | capt ops
  | free ops | query ops | resetCounters | resetTraffic | resetFull =>
    exact command_leaves rfl h

/-! ## Steps -/

/-- A step is a tick, or an exec on the state but for the queue of commands and the count of free choices. -/
theorem step_cases {s t : State} (h : step s = .next t) :
    t = tick s ∨ ∃ i choices pending, exec i { s with choices := choices, pending := pending } = .next t := by
  unfold step at h
  split at h
  · exact .inr ⟨_, _, _, h⟩
  · unfold idle at h
    split at h
    · exact .inr ⟨_, _, _, h⟩
    · exact .inl (Host.Outcome.next.inj h).symm

/-- What holds after a step, when `pre` held before it: `pre` must not read the queue of commands and the count of free
choices, and each way to leave a state must lead from `pre` to `post`. -/
theorem step_leads {pre post : State → Prop}
    (queues : ∀ s choices pending, pre s → pre { s with choices := choices, pending := pending })
    (ticks : ∀ s, pre s → post (tick s)) (leaves : ∀ s t, pre s → Leaves s t → post t) {s t : State} (holds : pre s)
    (h : step s = .next t) : post t := by
  obtain rfl | ⟨i, choices, pending, e⟩ := step_cases h
  · exact ticks s holds
  · exact leaves _ t (queues s choices pending holds) (exec_leaves e)

end Sys2Proof.Machine
end

section
/-! SUPPORT. What the management agent's acts may change: a command that neither flips the banks, nor frees a slot, nor
resets the traffic, stays within the agent, the contexts, the table store and the counters. -/

namespace Sys2Proof.Machine

/-! ## Commands -/

/-- From `s` to `t` a command has acted within the agent: the contexts, the table store, the counters and the hand of
the agent may differ, and nothing else. -/
def CommandReach (s t : State) : Prop :=
  ∃ cs st ct ag, t = { s with contexts := cs, store := st, counters := ct, agent := ag } ∧
    ag.queue = s.agent.queue

namespace CommandReach

theorem refl (s : State) : CommandReach s s := ⟨_, _, _, _, rfl, rfl⟩

theorem trans {s t u : State} (h : CommandReach s t) (k : CommandReach t u) : CommandReach s u := by
  obtain ⟨_, _, _, _, rfl, q⟩ := h
  obtain ⟨_, _, _, _, rfl, r⟩ := k
  exact ⟨_, _, _, _, rfl, r.trans q⟩

theorem port {s t : State} (h : CommandReach s t) : t.port = s.port := by
  obtain ⟨_, _, _, _, rfl, -⟩ := h
  rfl

theorem cls {s t : State} (h : CommandReach s t) : t.cls = s.cls := by
  obtain ⟨_, _, _, _, rfl, -⟩ := h
  rfl

theorem capture {s t : State} (h : CommandReach s t) : t.capture = s.capture := by
  obtain ⟨_, _, _, _, rfl, -⟩ := h
  rfl

end CommandReach

variable (h : InHand) (s : State)

theorem finishCommand_reach (st : Status) (d : List Byte) : CommandReach s (finishCommand h st d s) :=
  ⟨_, _, _, _, rfl, rfl⟩

theorem onRole_reach (i : Fin 4) (f : Role → Role) : CommandReach s (onRole i f s) := ⟨_, _, _, _, rfl, rfl⟩

theorem startCopy_reach : CommandReach s (startCopy s) := ⟨_, _, _, _, rfl, rfl⟩

theorem stage_reach (b : Bank) : CommandReach s (stage b s) := ⟨_, _, _, _, rfl, rfl⟩

theorem finishCopy_reach : CommandReach s (finishCopy s) := ⟨_, _, _, _, rfl, rfl⟩

theorem waitForCopy_reach : CommandReach s (waitForCopy h s) := ⟨_, _, _, _, rfl, rfl⟩

theorem finishList_reach (items : List (List Byte)) : CommandReach s (finishList h items s) :=
  finishCommand_reach h s _ _

theorem waitedRevert_reach : CommandReach s (waitedRevert h s) := (startCopy_reach s).trans (waitForCopy_reach h _)

theorem withForm_reach (n : Nat) (ops : List Byte) {f : InHand → State → State} (k : CommandReach s (f h s)) :
    CommandReach s (withForm n ops f h s) := by
  unfold withForm
  split
  · exact k
  · exact finishCommand_reach h s _ _

theorem editorOnly_reach {f : InHand → State → State} (k : CommandReach s (f h s)) :
    CommandReach s (editorOnly f h s) := by
  unfold editorOnly
  split
  · exact k
  · exact finishCommand_reach h s _ _

theorem grantSession_reach (length : Half) : CommandReach s (grantSession length h s) :=
  (onRole_reach s _ _).trans (finishCommand_reach h _ _ _)

theorem openWith_reach (l : Half) : CommandReach s (openWith l h s) := by
  unfold openWith
  split
  · exact finishCommand_reach h s _ _
  · split <;> split
    · exact grantSession_reach h s _
    · exact finishCommand_reach h s _ _
    · exact grantSession_reach h s _
    · exact finishCommand_reach h s _ _

theorem closeNow_reach : CommandReach s (closeNow h s) := by
  unfold closeNow
  split
  · exact waitedRevert_reach h s
  · exact (onRole_reach s _ _).trans (finishCommand_reach h _ _ _)

theorem revertNow_reach : CommandReach s (revertNow h s) := by
  unfold revertNow
  split
  · exact waitedRevert_reach h s
  · exact finishCommand_reach h s _ _

theorem readTable_reach (ops : List Byte) : CommandReach s (readTable ops h s) := by
  unfold readTable
  dsimp only
  split
  · exact finishCommand_reach h s _ _
  · split
    · exact finishCommand_reach h s _ _
    · split
      · exact finishCommand_reach h s _ _
      · split
        · exact finishCommand_reach h s _ _
        · split
          · exact finishCommand_reach h s _ _
          · exact finishList_reach h s _

theorem finishWrite_reach (t : TableId) (i : Nat) (b : Option Bank) : CommandReach s (finishWrite t i b h s) := by
  unfold finishWrite
  split
  · exact (stage_reach s _).trans (finishCommand_reach h _ _ _)
  · exact finishCommand_reach h s _ _

theorem writeEntry_reach (ops : List Byte) : CommandReach s (writeEntry ops h s) := by
  unfold writeEntry
  dsimp only
  split
  · exact finishCommand_reach h s _ _
  · split
    · exact finishCommand_reach h s _ _
    · split
      · exact finishCommand_reach h s _ _
      · exact finishWrite_reach h s _ _ _

theorem fillTable_reach (ops : List Byte) : CommandReach s (fillTable ops h s) := by
  unfold fillTable
  split
  · exact finishCommand_reach h s _ _
  · split
    · exact finishCommand_reach h s _ _
    · exact finishWrite_reach h s _ _ _

theorem readCounters_reach (t : StatTarget) (clear : Bool) : CommandReach s (readCounters t clear h s) := by
  refine CommandReach.trans ?_ (finishList_reach h _ _)
  split
  · exact ⟨_, _, _, _, rfl, rfl⟩
  · exact .refl s

theorem statNow_reach (ops : List Byte) : CommandReach s (statNow ops h s) := by
  unfold statNow
  split
  · exact finishCommand_reach h s _ _
  · split
    · exact finishCommand_reach h s _ _
    · exact finishCommand_reach h s _ _
    · exact readCounters_reach h s _ _

theorem captNow_reach (ops : List Byte) : CommandReach s (captNow ops h s) := by
  unfold captNow
  split
  · exact finishCommand_reach h s _ _
  · exact finishList_reach h s _

theorem queryNow_reach : CommandReach s (queryNow h s) := by
  unfold queryNow
  dsimp only
  split
  · split
    · exact ⟨_, _, _, _, rfl, rfl⟩
    · exact finishCommand_reach h s _ _
  · exact finishCommand_reach h s _ _

theorem clearCounters_reach : CommandReach s (clearCounters h s) := ⟨_, _, _, _, rfl, rfl⟩

theorem askFullReset_reach : CommandReach s (askFullReset h s) := finishCommand_reach _ s _ _

/-- R46: a COMMIT stays within the agent, or flips and waits. -/
theorem commitNow_cases : CommandReach s (commitNow h s) ∨ commitNow h s = waitForCopy h (flip s) := by
  unfold commitNow
  split
  · exact .inl (finishCommand_reach h s _ _)
  · split
    · exact .inr rfl
    · exact .inl (finishCommand_reach h s _ _)

/-- R155: a FREE stays within the agent, or empties a HELD slot. -/
theorem freeNow_cases (ops : List Byte) :
    CommandReach s (freeNow ops h s) ∨
      ∃ k r bs, s.capture.slot k = .held r bs ∧
        freeNow ops h s = finishCommand h .ok [] (s.setCapture (s.capture.empty1 k)) := by
  unfold freeNow
  split
  · exact .inl (finishCommand_reach h s _ _)
  · split
    · exact .inr ⟨_, _, _, ‹_›, rfl⟩
    · exact .inl (finishCommand_reach h s _ _)
    · exact .inl (finishCommand_reach h s _ _)

/-- What a command of a request does: it stays within the agent, or it is the COMMIT that flips, the FREE of a HELD slot
or the RESET of the traffic. -/
theorem command_cases {i : Instr} {f : InHand → State → State} (means : commandMeaning i = some f) :
    CommandReach s (f h s) ∨ f h s = waitForCopy h (flip s) ∨
      (∃ k r bs, s.capture.slot k = .held r bs ∧
        f h s = finishCommand h .ok [] (s.setCapture (s.capture.empty1 k))) ∨
      f h s = finishCommand h .ok [] (trafficReset s) := by
  cases i with
  | openSession ops =>
    obtain rfl := Option.some.inj means
    exact .inl (withForm_reach h s _ _ (openWith_reach h s _))
  | closeSession ops =>
    obtain rfl := Option.some.inj means
    exact .inl (editorOnly_reach h s (withForm_reach h s _ _ (closeNow_reach h s)))
  | rd ops =>
    obtain rfl := Option.some.inj means
    exact .inl (withForm_reach h s _ _ (readTable_reach h s ops))
  | wr ops =>
    obtain rfl := Option.some.inj means
    exact .inl (editorOnly_reach h s (writeEntry_reach h s ops))
  | fill ops =>
    obtain rfl := Option.some.inj means
    exact .inl (editorOnly_reach h s (fillTable_reach h s ops))
  | commit ops =>
    obtain rfl := Option.some.inj means
    unfold editorOnly withForm
    split
    · split
      · exact (commitNow_cases h s).imp_right .inl
      · exact .inl (finishCommand_reach h s _ _)
    · exact .inl (finishCommand_reach h s _ _)
  | revert ops =>
    obtain rfl := Option.some.inj means
    exact .inl (editorOnly_reach h s (withForm_reach h s _ _ (revertNow_reach h s)))
  | stat ops =>
    obtain rfl := Option.some.inj means
    exact .inl (withForm_reach h s _ _ (statNow_reach h s ops))
  | capt ops =>
    obtain rfl := Option.some.inj means
    exact .inl (withForm_reach h s _ _ (captNow_reach h s ops))
  | free ops =>
    obtain rfl := Option.some.inj means
    unfold withForm
    split
    · exact (freeNow_cases h s ops).imp_right fun e => .inr (.inl e)
    · exact .inl (finishCommand_reach h s _ _)
  | query ops =>
    obtain rfl := Option.some.inj means
    exact .inl (withForm_reach h s _ _ (queryNow_reach h s))
  | resetCounters =>
    obtain rfl := Option.some.inj means
    exact .inl (clearCounters_reach h s)
  | resetTraffic =>
    obtain rfl := Option.some.inj means
    exact .inr (.inr (.inr rfl))
  | resetFull =>
    obtain rfl := Option.some.inj means
    exact .inl (askFullReset_reach h s)
  | resetnAssert | resetnRelease _ | symbolReceived _ _ | egressDecision _ | launchCompletion _ | residenceExpiry _ _
  | windowRelease _ _ | ageingEvent _ _ | cadenceExpiry _ | requestTake | copyBackCompletion | leaseExpiry =>
    exact absurd means (by simp [commandMeaning])

theorem endWait_reach : CommandReach s (endWait h s) := by
  unfold endWait
  dsimp only
  split <;> exact ⟨_, _, _, _, rfl, rfl⟩

theorem copyDone_reach : CommandReach s (copyDone s) := by
  unfold copyDone
  split
  · exact (finishCopy_reach s).trans (endWait_reach _ _)
  · exact finishCopy_reach s

end Sys2Proof.Machine
end

section
/-! SUPPORT. The bounds of the egress side (R15, R18, R95, R114, R115, R126): service queues, launch histories, the
request queue, and the silence of a line that is not UP. One lemma for each operation. -/

namespace Sys2Proof.Machine

/-- The bounded stores that the egress side and the agent write, and the silence of a line that is not UP. -/
def State.EgressBounds (s : State) : Prop :=
  (∀ p, (s.service.get p).length ≤ 4) ∧ (∀ p c, (s.lane p c).history.length ≤ 32) ∧ s.agent.queue.length ≤ 4 ∧
    s.QuietInv

namespace State.EgressBounds

variable {s t : State}

theorem service (h : s.EgressBounds) (p : Line) : (s.service.get p).length ≤ 4 := h.1 p

theorem history (h : s.EgressBounds) (p : Line) (c : TrafficClass) : (s.lane p c).history.length ≤ 32 := h.2.1 p c

/-- The bounds read the service queues, the histories, the request queue, the transmitters and the line states. -/
theorem of_eq (h : s.EgressBounds) (service : t.service = s.service)
    (history : ∀ p c, (t.lane p c).history = (s.lane p c).history) (queue : t.agent.queue = s.agent.queue)
    (tx : t.tx = s.tx) (up : ∀ p, t.isUp p = s.isUp p) : t.EgressBounds := by
  obtain ⟨hs, hh, hq, quiet⟩ := h
  refine ⟨fun p => by rw [service]; exact hs p, fun p c => by rw [history]; exact hh p c, by rw [queue]; exact hq,
    fun p down => ?_⟩
  obtain ⟨free, silent⟩ := quiet p (up p ▸ down)
  refine ⟨?_, by rw [service]; exact silent⟩
  simpa only [State.txFree, tx] using free

/-- A command of a request stays within the agent and keeps the request queue. -/
theorem of_command (h : s.EgressBounds) (k : CommandReach s t) : t.EgressBounds := by
  obtain ⟨_, _, _, _, rfl, queue⟩ := k
  exact h.of_eq rfl (fun _ _ => rfl) queue rfl fun _ => rfl

end State.EgressBounds

section

variable {s : State} (h : s.EgressBounds)

include h

/-! ## Shared operations -/

theorem offer_bounds (p : Line) : (offer p s).EgressBounds := by
  rw [offer_eq]
  exact h

theorem setTx_free_bounds (p : Line) (x : TxClose) : (s.setTx p { launch := none, close := x }).EgressBounds := by
  obtain ⟨hs, hh, hq, quiet⟩ := h
  refine ⟨hs, hh, hq, fun q down => ⟨?_, (quiet q down).2⟩⟩
  have free := (quiet q down).1
  simp only [State.txFree, setTx_tx, PerLine.get_set] at free ⊢
  split
  · rfl
  · exact free

/-- R16: only a line that is UP starts a launch. -/
theorem startLaunch_bounds (p : Line) (up : s.isUp p = true) (bytes : List Byte) (x : LaunchSource) :
    (startLaunch p bytes x s).EgressBounds := by
  obtain ⟨hs, hh, hq, quiet⟩ := h
  refine ⟨hs, hh, hq, fun q down => ?_⟩
  have other : q ≠ p := by
    rintro rfl
    exact absurd (up.symm.trans down) (by simp)
  obtain ⟨free, silent⟩ := quiet q down
  refine ⟨?_, silent⟩
  simp only [State.txFree, startLaunch, setTx_tx, PerLine.get_set_ne _ _ _ _ other] at free ⊢
  exact free

theorem setService_bounds (p : Line) (q : List ServiceEntry) (shorter : q.length ≤ 4)
    (silent : s.isUp p = false → q = []) : (s.setService p q).EgressBounds := by
  obtain ⟨hs, hh, hq, quiet⟩ := h
  refine ⟨fun l => ?_, hh, hq, fun l down => ⟨(quiet l down).1, ?_⟩⟩
  · rw [setService_service, PerLine.get_set]
    split
    · exact shorter
    · exact hs l
  · rw [setService_service, PerLine.get_set]
    split
    · rename_i e
      exact silent (e ▸ down)
    · exact (quiet l down).2

/-- R114: a service queue takes an enqueue only while its line is UP and it holds fewer than 4 entries. -/
theorem enqueue_bounds (p : Line) (e : ServiceEntry) : (enqueue p e s).EgressBounds := by
  cases takes : s.serviceTakes p with
  | false =>
    rw [enqueue_lost s p e takes]
    exact h
  | true =>
    rw [enqueue_taken s p e takes]
    simp only [State.serviceTakes, Bool.and_eq_true, decide_eq_true_eq] at takes
    obtain ⟨up, room⟩ := takes
    refine offer_bounds (setService_bounds h p _ ?_ fun down => absurd (up.symm.trans down) (by simp)) p
    rw [List.length_append, List.length_singleton]
    omega

theorem notify_bounds (e : NoticeEvent) (t : Time) : (notify e t s).EgressBounds := by
  have advanced : ({ s with noticeSeq := s.noticeSeq + 1 } : State).EgressBounds := h
  cases target : s.active.devpol.target with
  | none =>
    rw [notify_none s e t target]
    exact advanced
  | some g =>
    rw [notify_some s e t g target]
    exact enqueue_bounds advanced _ _

/-! ## The pacer and the queues -/

theorem setLane_bounds (p : Line) (c : TrafficClass) (x : PacerLane) (short : x.history.length ≤ 32) :
    (s.setLane p c x).EgressBounds := by
  obtain ⟨hs, hh, hq, quiet⟩ := h
  refine ⟨hs, fun q k => ?_, hq, quiet⟩
  by_cases e : (q, k) = (p, c)
  · obtain ⟨rfl, rfl⟩ := Prod.mk.inj e
    rw [lane_setLane_same]
    exact short
  · rw [lane_setLane_ne s q p c k x e]
    exact hh q k

theorem recordHead_bounds (p : Line) (c : TrafficClass) (b : Bool) : (recordHead p c b s).EgressBounds := by
  obtain ⟨pa, ct, shape⟩ := recordHead_shape s p c b
  obtain ⟨same, others⟩ := recordHead_lane s p c b
  refine h.of_eq (by rw [shape]) (fun q k => ?_) (by rw [shape]) (by rw [shape]) fun q => by rw [shape]; rfl
  by_cases e : (q, k) = (p, c)
  · obtain ⟨rfl, rfl⟩ := Prod.mk.inj e
    rw [same]
  · rw [others q k e]

theorem evaluateOffer_bounds (p : Line) (c : TrafficClass) : (evaluateOffer p c s).EgressBounds := by
  have k : (evaluate p c s).EgressBounds := recordHead_bounds h p c _
  rw [evaluateOffer_eq]
  split
  · exact offer_bounds k p
  · exact k

theorem newHead_bounds (p : Line) (c : TrafficClass) : (newHead p c s).EgressBounds := by
  have expired : (expireHeads p c s).EgressBounds := by
    rw [expireHeads_eq]
    exact h
  exact evaluateOffer_bounds (setLane_bounds expired p c
    { (expireHeads p c s).lane p c with head := .none, release := none } (expired.history p c)) p c

theorem checkHead_bounds (p : Line) (c : TrafficClass) : (checkHead p c s).EgressBounds := by
  unfold checkHead
  split
  · split
    · exact newHead_bounds h p c
    · exact h
  · exact h

/-! ## The cadence units -/

theorem forcedTest_bounds (p : Line) : (forcedTest p s).EgressBounds := by
  unfold forcedTest
  dsimp only
  split
  · exact notify_bounds (show (count _ _ (s.setCadence p _)).EgressBounds from h) _ _
  · exact h

theorem cadenceExpire_bounds (p : Line) (due : Time) : (cadenceExpire p due s).EgressBounds := by
  unfold cadenceExpire
  dsimp only
  refine offer_bounds ?_ p
  split
  · exact forcedTest_bounds (show (s.setCadence p _).EgressBounds from h) p
  · exact notify_bounds (show (count _ _ (s.setCadence p _)).EgressBounds from h) _ _

theorem cadenceFlip_bounds (p : Line) (old : PortPol) : (cadenceFlip p old s).EgressBounds := by
  refine forcedTest_bounds ?_ p
  split
  · exact h
  · exact h

/-! ## The arbiter -/

omit h in
theorem appendHistory_length (now : Time) (hist : List Time) (short : hist.length ≤ 32) :
    (appendHistory hist now).length ≤ 32 := by
  unfold appendHistory
  split <;> simp <;> omega

theorem launchHead_bounds (p : Line) (up : s.isUp p = true) (c : TrafficClass) (d : Descriptor)
    (rest : List Descriptor) : (launchHead p c d rest s).EgressBounds := by
  have launched : ((s.setQueue p c rest).setLane p c
      { s.lane p c with history := appendHistory (s.lane p c).history s.timebase }).EgressBounds :=
    setLane_bounds (show (s.setQueue p c rest).EgressBounds from h) p c _
      (appendHistory_length _ _ (h.history p c))
  exact newHead_bounds (startLaunch_bounds launched p up _ _) p c

theorem launchCadence_bounds (p : Line) (up : s.isUp p = true) (t : Time) (rest : List Time) :
    (launchCadence p t rest s).EgressBounds :=
  startLaunch_bounds (show (s.setCadence p _).EgressBounds from h) p up _ _

theorem launchService_bounds (p : Line) (up : s.isUp p = true) (e : ServiceEntry) (rest : List ServiceEntry)
    (queue : s.service.get p = e :: rest) : (launchService p e rest s).EgressBounds := by
  have long := h.service p
  rw [queue, List.length_cons] at long
  exact startLaunch_bounds
    (setService_bounds h p rest (by omega) fun down => absurd (up.symm.trans down) (by simp)) p up _ _

omit h in
theorem scanHeads_bounds (p : Line) (cs : List TrafficClass) :
    ∀ s : State, s.EgressBounds → s.isUp p = true → (scanHeads p cs s).EgressBounds := by
  induction cs with
  | nil =>
    intro s h up
    unfold scanHeads
    split
    · exact launchCadence_bounds h p up _ _
    · exact h
  | cons c cs ih =>
    intro s h up
    have found : (evaluateAtDecision p c s).EgressBounds := recordHead_bounds h p c _
    have still : (evaluateAtDecision p c s).isUp p = true := (evaluateAtDecision_reach s p c).isUp p ▸ up
    unfold scanHeads
    split
    · exact ih s h up
    · dsimp only
      split
      · exact launchHead_bounds found p still c _ _
      · exact ih _ found still

theorem arbitrate_bounds (p : Line) (up : s.isUp p = true) : (arbitrate p s).EgressBounds := by
  unfold arbitrate
  split
  · exact launchCadence_bounds h p up _ _
  · split
    · exact launchService_bounds h p up _ _ ‹_›
    · exact scanHeads_bounds p _ s h up

theorem decideOffer_bounds (p : Line) (up : s.isUp p = true) : (decideOffer p s).EgressBounds :=
  arbitrate_bounds h p up

theorem decideNow_bounds (p : Line) : (decideNow p s).EgressBounds := by
  unfold decideNow
  dsimp only
  split
  · rename_i may
    simp only [Bool.and_eq_true] at may
    split
    · exact arbitrate_bounds h p may.1
    · exact arbitrate_bounds h p may.1
  · exact h

/-! ## The flip -/

theorem flipAct_bounds (s0 : State) (rest : List FlipAct) (a : FlipAct) : (flipAct s0 rest a s).EgressBounds := by
  cases a with
  | queue p c => exact checkHead_bounds h p c
  | head p c => exact evaluateOffer_bounds h p c
  | cadence p => exact cadenceFlip_bounds h p _
  | arbiter p =>
    simp only [flipAct]
    split
    · exact offer_bounds h p
    · exact decideNow_bounds h p

theorem flip_bounds : (flip s).EgressBounds := by
  have stored : (flipStore s).EgressBounds := by
    unfold flipStore
    dsimp only
    split
    · exact h
    · exact h
  exact flipActs_keeps State.EgressBounds s (fun rest a _ k => flipAct_bounds k s rest a) _ _ stored

/-! ## The ends of a launch, and the flush of a line -/

theorem flushClass_bounds (p : Line) (c : TrafficClass) : (flushClass p s c).EgressBounds := by
  unfold flushClass
  dsimp only
  rw [releaseAll_eq]
  exact setLane_bounds h p c _ (Nat.zero_le _)

omit h in
theorem flushLine_bounds (p : Line) (h : s.EgressBounds) : (flushLine p s).EgressBounds :=
  List.foldlRecOn classesUp (flushClass p) h fun _ k c _ => flushClass_bounds k p c

theorem clearEgress_bounds (p : Line) : (clearEgress p s).EgressBounds := flushLine_bounds p h

end

/-- Power-on leaves the egress side empty, and the launches in progress cut. -/
theorem powerOnFrom_bounds (straps : BitVec 6) (low : Bool) (s : State) :
    ({ powerOnFrom straps s with resetLow := low } : State).EgressBounds := by
  have free : ∀ t : Transmitter, t.cut.launch = none := fun t => by
    unfold Transmitter.cut
    split <;> simp_all
  refine ⟨fun p => by cases p <;> exact Nat.zero_le _, fun p c => ?_, Nat.zero_le _,
    fun p _ => ⟨?_, by cases p <;> rfl⟩⟩
  · have empty : ({ powerOnFrom straps s with resetLow := low } : State).lane p c = PacerLane.empty := by
      cases p <;> exact Vector.getElem_replicate _
    rw [empty]
    exact Nat.zero_le _
  · cases p
    · exact Option.isNone_iff_eq_none.2 (free s.tx.n)
    · exact Option.isNone_iff_eq_none.2 (free s.tx.s)

theorem fullReset_bounds (s : State) : (fullReset s).EgressBounds := powerOnFrom_bounds _ _ s

section

variable {s : State} (h : s.EgressBounds)

include h

theorem completeLaunch_bounds (p : Line) (x : Launch) : (completeLaunch p x s).EgressBounds := by
  have freed := setTx_free_bounds h p .ended
  have accounted : (account p x.source (s.setTx p { launch := none, close := .ended })).EgressBounds := by
    cases x.source <;> exact freed
  unfold completeLaunch
  dsimp only
  split
  · exact fullReset_bounds _
  · exact offer_bounds accounted p

/-! ## The management agent -/

theorem nextRequest_bounds : (nextRequest s).EgressBounds := by
  obtain ⟨hs, hh, hq, quiet⟩ := h
  refine ⟨hs, hh, ?_, quiet⟩
  rw [nextRequest_eq, setAgent_agent]
  unfold Agent.afterFinish
  split
  · exact Nat.zero_le _
  · rename_i r rest e
    rw [e, List.length_cons] at hq
    exact Nat.le_of_succ_le hq

theorem sendReply_bounds (l : Line) (frame : List Byte) (awaited : Bool) :
    (sendReply l frame awaited s).EgressBounds := enqueue_bounds h l _

theorem answer_bounds (status : Byte) (hand : InHand) : (answer status hand s).EgressBounds := by
  have stored : ∀ c, (s.setContext hand.ctx c).EgressBounds := fun _ => h
  unfold answer
  dsimp only
  split
  · exact nextRequest_bounds (sendReply_bounds (stored _) _ _ _)
  · split
    · exact sendReply_bounds (stored _) hand.line _ hand.full
    · exact fullReset_bounds _

theorem beginRequest_bounds (i : Fin 4) (r : Request) : (beginRequest i r s).EgressBounds := by
  have renewed : (onRole i (Role.renew s.timebase) s).EgressBounds := h
  unfold beginRequest
  dsimp only
  split
  · exact renewed
  · exact answer_bounds renewed _ _

theorem replay_bounds (i : Fin 4) (l : Line) : (replay i l s).EgressBounds := by
  have renewed : (onRole i (Role.renew s.timebase) s).EgressBounds := h
  unfold replay
  dsimp only
  refine nextRequest_bounds ?_
  split
  · exact sendReply_bounds renewed _ _ _
  · exact renewed

theorem judgeRequest_bounds (i : Fin 4) (c : Context) (r : Request) : (judgeRequest i c r s).EgressBounds := by
  unfold judgeRequest
  split
  · exact beginRequest_bounds (show (s.setContext i _).EgressBounds from h) i r
  · exact replay_bounds h i r.line
  · exact nextRequest_bounds (sendReply_bounds h _ _ _)

theorem takeRequest_bounds (r : Request) : (takeRequest r s).EgressBounds := by
  unfold takeRequest
  dsimp only
  split
  · split
    · exact judgeRequest_bounds (show (touch _ s).EgressBounds from h) _ _ r
    · exact h
  · split
    · exact beginRequest_bounds (show (touch _ (s.setContext _ _)).EgressBounds from h) _ r
    · exact h

theorem goOn_bounds (hand : InHand) : (goOn hand s).EgressBounds := by
  unfold goOn
  split
  · exact answer_bounds h _ _
  · split
    · exact h
    · exact h

theorem expireLease_bounds (i : Fin 4) : (expireLease i s).EgressBounds := by
  unfold expireLease
  dsimp only
  refine notify_bounds ?_ _ _
  split
  · exact h
  · exact h

end

end Sys2Proof.Machine
end

section
/-! SUPPORT. Line down on the egress side (Table 1-3): what the cut of a launch, the flush of a line and the emptied
service queue leave in each store, and which counters they move. -/

namespace Sys2Proof.Machine

theorem cut_launch (t : Transmitter) : t.cut.launch = none := by
  unfold Transmitter.cut
  split <;> simp_all

theorem cut_of_free (t : Transmitter) (free : t.launch = none) : t.cut = t := by simp [Transmitter.cut, free]

theorem cut_cut (t : Transmitter) : t.cut.cut = t.cut := cut_of_free _ (cut_launch t)

/-! ## Cells given back one after the other -/

/-- From `p` to `q` these many cells of frames bound for `e` have been given back. -/
def Pool.Returned (e : Line) (k : Nat) (p q : Pool) : Prop :=
  q.free = p.free + k ∧ q.used = p.used.set e (p.used.get e - k) ∧ p.Rearms q

namespace Pool.Returned

variable {e : Line} {p q r : Pool} {j k : Nat}

theorem none (e : Line) (p : Pool) : p.Returned e 0 p := ⟨rfl, by simp, rearms_refl p⟩

theorem give (e : Line) (k : Nat) (p : Pool) : p.Returned e k (p.give e k) := ⟨rfl, rfl, give_rearms p e k⟩

theorem giveAll (e : Line) (ds : List Descriptor) (p : Pool) :
    p.Returned e (ds.map (·.cells)).sum (ds.foldl (fun p d => p.give e d.cells) p) :=
  ⟨give_all_free e ds p, give_all_used e ds p, give_all_rearms e ds p⟩

theorem trans (h : p.Returned e j q) (g : q.Returned e k r) : p.Returned e (j + k) r := by
  obtain ⟨free, used, rearms⟩ := h
  obtain ⟨free', used', rearms'⟩ := g
  refine ⟨by omega, ?_, rearms_trans rearms rearms'⟩
  rw [used', used, PerLine.get_set_same, PerLine.set_set, Nat.sub_sub]

end Pool.Returned

variable (s : State) (p : Line)

/-! ## The cut of a launch -/

theorem abortLaunch_shape :
    ∃ po ct, abortLaunch p s = { s with tx := s.tx.set p (s.tx.get p).cut, pool := po, counters := ct } := by
  unfold abortLaunch
  dsimp only
  split
  · rename_i free
    refine ⟨s.pool, s.counters, ?_⟩
    rw [cut_of_free _ free, PerLine.set_get]
  · split <;> exact ⟨_, _, rfl⟩

theorem abortLaunch_pool : s.pool.Returned p (s.tx.get p).cells (abortLaunch p s).pool := by
  unfold abortLaunch Transmitter.cells
  rcases s.tx.get p with ⟨_ | ⟨start, bytes, d | e | _⟩, close⟩
  · exact .none p _
  · exact .give p d.cells _
  · exact .none p _
  · exact .none p _

/-- R90: the cut of a class frame is counted, and no other. -/
theorem abortLaunch_read (id : CounterId) :
    (abortLaunch p s).counters.read id =
      (s.counters.read id).add (if ∃ c, (s.tx.get p).cls = some c ∧ id = .egress p c .launchAbort then 1 else 0) := by
  unfold abortLaunch Transmitter.cls
  rcases s.tx.get p with ⟨_ | ⟨start, bytes, d | e | _⟩, close⟩
  · simp [Counter.add_zero]
  · simp only [Option.some.injEq, exists_eq_left', count_eq, releaseCells_eq, setTx_counters, Counters.read_add]
    split <;> simp [Counter.add_zero]
  · simp [Counter.add_zero]
  · simp [Counter.add_zero]

/-! ## The flush of a line -/

theorem flushClass_eq (c : TrafficClass) :
    flushClass p s c =
      { (s.setQueue p c []).setLane p c PacerLane.empty with
        pool := (s.queue p c).foldl (fun x d => x.give p d.cells) s.pool
        counters := s.counters.add (.egress p c .flush) (s.queue p c).length } := by
  unfold flushClass
  simp only [releaseAll_eq, count_eq]
  rfl

theorem flushClass_queue (c k : TrafficClass) :
    (flushClass p s c).queue p k = if k = c then [] else s.queue p k := by
  rw [flushClass_eq]
  show (s.setQueue p c []).queue p k = _
  split
  · rename_i e
    rw [e, queue_setQueue_same]
  · exact queue_setQueue_ne s p p c k _ (by simp_all)

theorem flushClass_lane (c k : TrafficClass) :
    (flushClass p s c).lane p k = if k = c then PacerLane.empty else s.lane p k := by
  rw [flushClass_eq]
  show (s.setLane p c PacerLane.empty).lane p k = _
  split
  · rename_i e
    rw [e, lane_setLane_same]
  · exact lane_setLane_ne s p p c k _ (by simp_all)

/-- The classes flushed have empty queues and lanes; the others are as before. -/
theorem flushAll_queue_lane (cs : List TrafficClass) (k : TrafficClass) : ∀ s : State,
    (cs.foldl (flushClass p) s).queue p k = (if k ∈ cs then [] else s.queue p k) ∧
      (cs.foldl (flushClass p) s).lane p k = if k ∈ cs then PacerLane.empty else s.lane p k := by
  induction cs with
  | nil => exact fun s => ⟨rfl, rfl⟩
  | cons c cs ih =>
    intro s
    obtain ⟨queue, lane⟩ := ih (flushClass p s c)
    rw [List.foldl_cons, queue, lane, flushClass_queue, flushClass_lane]
    by_cases e : k = c <;> simp [e]

/-- Each frame of a flushed class returns its cells and is counted FLUSH for its class. -/
theorem flushAll_pool_read (cs : List TrafficClass) (once : cs.Nodup) : ∀ s : State,
    s.pool.Returned p (cs.map fun c => ((s.queue p c).map (·.cells)).sum).sum (cs.foldl (flushClass p) s).pool ∧
      ∀ id, (cs.foldl (flushClass p) s).counters.read id = (s.counters.read id).add
        (cs.map fun c => if id = .egress p c .flush then (s.queue p c).length else 0).sum := by
  induction cs with
  | nil => exact fun s => ⟨.none p _, fun id => (Counter.add_zero _).symm⟩
  | cons c cs ih =>
    intro s
    obtain ⟨fresh, once⟩ := List.nodup_cons.1 once
    obtain ⟨pool, read⟩ := ih once (flushClass p s c)
    have others : ∀ k ∈ cs, (flushClass p s c).queue p k = s.queue p k := fun k hk => by
      rw [flushClass_queue, if_neg]
      rintro rfl
      exact fresh hk
    have first : s.pool.Returned p ((s.queue p c).map (·.cells)).sum (flushClass p s c).pool := by
      rw [flushClass_eq]
      exact .giveAll p _ _
    refine ⟨?_, fun id => ?_⟩
    · rw [List.map_congr_left fun k hk => by rw [others k hk]] at pool
      exact first.trans pool
    · rw [List.foldl_cons, read id, List.map_congr_left fun k hk => by rw [others k hk], List.map_cons, List.sum_cons,
        ← Counter.add_add]
      congr 1
      rw [flushClass_eq]
      show (s.counters.add _ _).read id = _
      rw [Counters.read_add]
      split
      · rfl
      · exact (Counter.add_zero _).symm

theorem classesUp_nodup : classesUp.Nodup := by decide

theorem mem_classesUp (c : TrafficClass) : c ∈ classesUp := by revert c; decide

theorem flushLine_queue (c : TrafficClass) : (flushLine p s).queue p c = [] := by
  rw [flushLine, (flushAll_queue_lane p classesUp c s).1, if_pos (mem_classesUp c)]

theorem flushLine_lane (c : TrafficClass) : (flushLine p s).lane p c = PacerLane.empty := by
  rw [flushLine, (flushAll_queue_lane p classesUp c s).2, if_pos (mem_classesUp c)]

theorem flushLine_pool : s.pool.Returned p (s.queuedCells p) (flushLine p s).pool :=
  (flushAll_pool_read p classesUp classesUp_nodup s).1

theorem flushLine_read_flush (c : TrafficClass) :
    (flushLine p s).counters.read (.egress p c .flush) =
      (s.counters.read (.egress p c .flush)).add (s.queue p c).length := by
  rw [flushLine, (flushAll_pool_read p classesUp classesUp_nodup s).2]
  simp only [CounterId.egress.injEq, true_and, and_true]
  congr 1
  revert c
  simp [classesUp, Fin.forall_fin_succ]

theorem flushLine_counts : s.CountsOnly (flushLine p s) fun id => ∃ c, id = .egress p c .flush := by
  intro id other
  rw [flushLine, (flushAll_pool_read p classesUp classesUp_nodup s).2]
  have none : ∀ c, id ≠ .egress p c .flush := fun c e => other ⟨c, e⟩
  simp [none, Counter.add_zero]

/-- A flush writes the queues and lanes of its line, the pool and the counters. -/
theorem flushLine_shape :
    ∃ qs pa po ct, flushLine p s = { s with queues := qs, pacer := pa, pool := po, counters := ct } := by
  unfold flushLine
  induction classesUp generalizing s with
  | nil => exact ⟨_, _, _, _, rfl⟩
  | cons c cs ih =>
    obtain ⟨qs, pa, po, ct, e⟩ := ih (flushClass p s c)
    rw [List.foldl_cons, e, flushClass_eq]
    exact ⟨_, _, _, _, rfl⟩

/-! ## The service queue emptied -/

/-- R114: the entries lost are counted one by one, each by its sort. -/
theorem countLost_read (es : List ServiceEntry) (id : CounterId) : ∀ s : State,
    (es.foldl (fun s e => count (lostCounter p e) 1 s) s).counters.read id =
      (s.counters.read id).add (es.countP fun e => id = lostCounter p e) := by
  induction es with
  | nil => exact fun s => (Counter.add_zero _).symm
  | cons e es ih =>
    intro s
    rw [List.foldl_cons, ih, count_eq, Counters.read_add, List.countP_cons]
    by_cases h : id = lostCounter p e
    · simp only [h, if_true, decide_true, Counter.add_add, Nat.add_comm]
    · simp [h]

theorem countLost_shape (es : List ServiceEntry) :
    ∃ ct, es.foldl (fun s e => count (lostCounter p e) 1 s) s = { s with counters := ct } := by
  induction es generalizing s with
  | nil => exact ⟨_, rfl⟩
  | cons e es ih => exact (ih (count (lostCounter p e) 1 s)).imp fun ct h => h

theorem emptyService_shape : ∃ ct, emptyService p s = { s with service := s.service.set p [], counters := ct } :=
  countLost_shape (s.setService p []) p _

theorem emptyService_read (id : CounterId) :
    (emptyService p s).counters.read id =
      (s.counters.read id).add ((s.service.get p).countP fun e => id = lostCounter p e) :=
  countLost_read p _ id _

/-! ## Line down -/

/-- The egress side of a line after line down, store by store. -/
theorem egressDown_shape :
    ∃ qs pa po ct, egressDown p s = { s with
      queues := qs, pacer := pa, pool := po, counters := ct, tx := s.tx.set p (s.tx.get p).cut
      service := s.service.set p [], cadence := s.cadence.set p (s.cadence.get p).lineDown
      offers := s.offers.set p 0 } := by
  unfold egressDown
  obtain ⟨po, ct, e1⟩ := abortLaunch_shape s p
  obtain ⟨qs, pa, po', ct', e2⟩ := flushLine_shape
    { s with tx := s.tx.set p (s.tx.get p).cut, pool := po, counters := ct } p
  obtain ⟨ct'', e3⟩ := emptyService_shape
    { s with tx := s.tx.set p (s.tx.get p).cut, queues := qs, pacer := pa, pool := po', counters := ct' } p
  rw [e1, e2, e3]
  exact ⟨qs, pa, po', ct'', rfl⟩

theorem egressDown_queue (c : TrafficClass) : (egressDown p s).queue p c = [] := by
  obtain ⟨ct, e⟩ := emptyService_shape (flushLine p (abortLaunch p s)) p
  unfold egressDown
  rw [e]
  exact flushLine_queue _ p c

theorem egressDown_lane (c : TrafficClass) : (egressDown p s).lane p c = PacerLane.empty := by
  obtain ⟨ct, e⟩ := emptyService_shape (flushLine p (abortLaunch p s)) p
  unfold egressDown
  rw [e]
  exact flushLine_lane _ p c

theorem abortLaunch_queue (c : TrafficClass) : (abortLaunch p s).queue p c = s.queue p c := by
  obtain ⟨po, ct, e⟩ := abortLaunch_shape s p
  rw [e]
  rfl

theorem abortLaunch_service : (abortLaunch p s).service = s.service := by
  obtain ⟨po, ct, e⟩ := abortLaunch_shape s p
  rw [e]

theorem flushLine_service : (flushLine p s).service = s.service := by
  obtain ⟨qs, pa, po, ct, e⟩ := flushLine_shape s p
  rw [e]

/-- R90: the cells of the launch and of the queued frames return. -/
theorem egressDown_pool : s.pool.Returned p (s.queuedCells p + (s.tx.get p).cells) (egressDown p s).pool := by
  have queued : (abortLaunch p s).queuedCells p = s.queuedCells p := by simp only [State.queuedCells, abortLaunch_queue]
  have flushed := flushLine_pool (abortLaunch p s) p
  rw [queued] at flushed
  obtain ⟨ct, e⟩ := emptyService_shape (flushLine p (abortLaunch p s)) p
  have last : (egressDown p s).pool = (flushLine p (abortLaunch p s)).pool := by
    unfold egressDown
    rw [e]
    rfl
  rw [last, Nat.add_comm]
  exact (abortLaunch_pool s p).trans flushed

theorem egressDown_counters :
    (egressDown p s).counters = (emptyService p (flushLine p (abortLaunch p s))).counters := rfl

/-- Line down counts each flushed frame of a class. -/
theorem egressDown_read_flush (c : TrafficClass) :
    (egressDown p s).counters.read (.egress p c .flush) =
      (s.counters.read (.egress p c .flush)).add (s.queue p c).length := by
  have service : ∀ e, CounterId.egress p c .flush ≠ lostCounter p e := fun e => by
    unfold lostCounter
    split <;> simp
  rw [egressDown_counters, emptyService_read, flushLine_read_flush, abortLaunch_read, abortLaunch_queue]
  simp [service, Counter.add_zero]

/-- Line down counts the cut of a class frame. -/
theorem egressDown_read_launchAbort (c : TrafficClass) :
    (egressDown p s).counters.read (.egress p c .launchAbort) =
      (s.counters.read (.egress p c .launchAbort)).add (if (s.tx.get p).cls = some c then 1 else 0) := by
  have service : ∀ e, CounterId.egress p c .launchAbort ≠ lostCounter p e := fun e => by
    unfold lostCounter
    split <;> simp
  rw [egressDown_counters, emptyService_read, flushLine_counts _ p _ (by simp), abortLaunch_read]
  simp [service, Counter.add_zero]

theorem lostCounter_reply (e : ServiceEntry) : CounterId.line p .replyLost = lostCounter p e ↔ e.sort = .reply := by
  unfold lostCounter
  cases e.sort <;> simp

theorem lostCounter_notice (e : ServiceEntry) :
    CounterId.line p .noticeLost = lostCounter p e ↔ e.sort = .notice := by
  unfold lostCounter
  cases e.sort <;> simp

/-- Line down counts each lost entry of the service queue by its sort. -/
theorem egressDown_read_lost :
    (egressDown p s).counters.read (.line p .replyLost) =
        (s.counters.read (.line p .replyLost)).add ((s.service.get p).countP (·.sort = .reply)) ∧
      (egressDown p s).counters.read (.line p .noticeLost) =
        (s.counters.read (.line p .noticeLost)).add ((s.service.get p).countP (·.sort = .notice)) := by
  constructor
  · rw [egressDown_counters, emptyService_read, flushLine_counts _ p _ (by simp), abortLaunch_read, flushLine_service,
      abortLaunch_service]
    simp [lostCounter_reply, Counter.add_zero]
  · rw [egressDown_counters, emptyService_read, flushLine_counts _ p _ (by simp), abortLaunch_read, flushLine_service,
      abortLaunch_service]
    simp [lostCounter_notice, Counter.add_zero]

/-- Line down moves no other counter. -/
theorem egressDown_counts :
    s.CountsOnly (egressDown p s) fun id =>
      (∃ c, id = .egress p c .flush ∨ id = .egress p c .launchAbort) ∨ id = .line p .replyLost ∨
        id = .line p .noticeLost := by
  intro id other
  push Not at other
  obtain ⟨classes, reply, notice⟩ := other
  have flush : ¬ ∃ c, id = .egress p c .flush := fun ⟨c, e⟩ => (classes c).1 e
  have abort : ¬ ∃ c, (s.tx.get p).cls = some c ∧ id = .egress p c .launchAbort := fun ⟨c, _, e⟩ => (classes c).2 e
  have service : ∀ e, id ≠ lostCounter p e := fun e => by
    unfold lostCounter
    split
    · exact reply
    · exact notice
  rw [egressDown_counters, emptyService_read, flushLine_counts _ p _ flush, abortLaunch_read, if_neg abort]
  simp [service, Counter.add_zero]

end Sys2Proof.Machine
end

section
/-! SUPPORT. The capture store read after each of its operations, and its linkage to the classifiers (R161, R162, R164,
R165): the moves that keep it. -/

namespace Sys2Proof.Machine

/-! ## The slots after an operation -/

namespace CaptureStore

variable (c : CaptureStore) (j k : Fin 4)

theorem slot_setSlot (x : Slot) : (c.setSlot k x).slot j = if j = k then x else c.slot j :=
  getElem_set_row c.slots k j x

theorem slot_setSlot_same (x : Slot) : (c.setSlot k x).slot k = x := by rw [slot_setSlot, if_pos rfl]

theorem slot_setSlot_ne (x : Slot) (h : j ≠ k) : (c.setSlot k x).slot j = c.slot j := by rw [slot_setSlot, if_neg h]

theorem slot_empty1 : (c.empty1 k).slot j = if j = k then .empty else c.slot j := slot_setSlot c j k _

theorem slot_claim (r : CaptureRecord) (window : List Byte) :
    (c.claim k r window).slot j = if j = k then .filling r window else c.slot j := slot_setSlot c j k _

/-- R164: a byte passed to a slot is appended where the slot is FILLING with fewer than 128 bytes. -/
theorem slot_pass (b : Byte) :
    (c.pass k b).slot j =
      if j = k then
        match c.slot k with
        | .filling r bs => .filling r (if bs.length < 128 then bs ++ [b] else bs)
        | other => other
      else c.slot j := by
  unfold pass
  cases filling : c.slot k with
  | empty =>
    dsimp only
    split
    · rename_i e
      rw [e, filling]
    · rfl
  | held r bs =>
    dsimp only
    split
    · rename_i e
      rw [e, filling]
    · rfl
  | filling r bs =>
    dsimp only
    by_cases room : bs.length < 128
    · simp only [room, if_true]
      exact slot_setSlot c j k _
    · simp only [room, if_false]
      split
      · rename_i e
        rw [e, filling]
      · rfl

theorem claims_pass (b : Byte) : (c.pass k b).claims = c.claims := by
  unfold pass
  split
  · split <;> rfl
  · rfl
  · rfl

theorem isEmpty_iff (x : Slot) : x.isEmpty = true ↔ x = .empty := by cases x <;> simp [Slot.isEmpty]

/-- R162: the slot given to a request is EMPTY or HELD, never one that is FILLING. -/
theorem choose_not_filling (mode : CaptureMode) (h : c.choose mode = some k) :
    ∀ r bs, c.slot k ≠ .filling r bs := by
  intro r bs filling
  unfold choose at h
  rcases Option.or_eq_some_iff.1 h with found | ⟨-, found⟩
  · have empty := List.find?_some found
    simp [filling, Slot.isEmpty] at empty
  · split at found
    · exact absurd found (by simp)
    · have held := List.find?_some found
      simp [filling, Slot.isHeld] at held

/-- R164: no slot holds more than 128 bytes. -/
def Short : Prop := ∀ k r bs, c.slot k = .filling r bs ∨ c.slot k = .held r bs → bs.length ≤ 128

variable {c}

theorem Short.setSlot (h : c.Short) (x : Slot) (short : ∀ r bs, x = .filling r bs ∨ x = .held r bs → bs.length ≤ 128) :
    (c.setSlot k x).Short := by
  intro i r bs at_i
  rw [slot_setSlot] at at_i
  split at at_i
  · exact short r bs at_i
  · exact h i r bs at_i

theorem Short.empty1 (h : c.Short) : (c.empty1 k).Short := h.setSlot k .empty (by simp)

theorem Short.claim (h : c.Short) (r : CaptureRecord) (window : List Byte) (short : window.length ≤ 128) :
    (c.claim k r window).Short :=
  h.setSlot k (.filling r window) (by simpa using short)

theorem Short.pass (h : c.Short) (b : Byte) : (c.pass k b).Short := by
  unfold CaptureStore.pass
  split
  · rename_i r bs filling
    split
    · refine h.setSlot k _ ?_
      rintro r' bs' (e | e)
      · obtain ⟨-, rfl⟩ := Slot.filling.inj e
        rw [List.length_append, List.length_singleton]
        omega
      · exact absurd e (by simp)
    · exact h
  · exact h
  · exact h

end CaptureStore

/-! ## The linkage of slots and classifiers -/

/-- The linkage reads the classifiers and the capture store only. -/
theorem State.CaptureInv.of_eq {s t : State} (h : s.CaptureInv) (cls : t.cls = s.cls)
    (capture : t.capture = s.capture) :
    t.CaptureInv := by
  unfold State.CaptureInv at h ⊢
  rw [cls, capture]
  exact h

section

variable {s t : State} {l : Line} {c : Classifier} (h : s.CaptureInv)

include h

/-- A classifier in another state than CARRYING and DRAINING holds no slot. -/
theorem slot_none_of_state (l : Line) (state : (s.cls.get l).state ≠ .carrying ∧ (s.cls.get l).state ≠ .draining) :
    (s.cls.get l).slot = none := by
  obtain ⟨-, -, past, -⟩ := h
  cases holds : (s.cls.get l).slot with
  | none => rfl
  | some k => exact absurd (past l k holds) (by simp [state])

/-- No two classifiers hold one slot. -/
theorem slot_inj {l m : Line} {k : Fin 4} (hl : (s.cls.get l).slot = some k) (hm : (s.cls.get m).slot = some k) :
    l = m := by
  obtain ⟨fills, -⟩ := h
  obtain ⟨r, bs, at_k, rfl⟩ := fills l k hl
  obtain ⟨r', bs', at_k', rfl⟩ := fills m k hm
  rw [at_k] at at_k'
  obtain ⟨rfl, -⟩ := Slot.filling.inj at_k'
  rfl

/-- A classifier that keeps its slot number, and a state that may hold one. -/
theorem captureInv_keep (cls : t.cls = s.cls.set l c) (capture : t.capture = s.capture)
    (slot : c.slot = (s.cls.get l).slot) (state : c.slot ≠ none → c.state = .carrying ∨ c.state = .draining) :
    t.CaptureInv := by
  obtain ⟨fills, filled, past, once, claimed⟩ := h
  have slots : ∀ m, (t.cls.get m).slot = (s.cls.get m).slot := fun m => by
    rw [cls, PerLine.get_set]
    split
    · rename_i e
      rw [slot, e]
    · rfl
  unfold State.CaptureInv
  rw [capture]
  refine ⟨fun m k e => fills m k (slots m ▸ e), fun k r bs e => (slots _).trans (filled k r bs e),
    fun m k e => ?_, once,
    claimed⟩
  rw [cls, PerLine.get_set] at e ⊢
  split
  · rename_i same
    rw [if_pos same] at e
    exact state (by simp [e])
  · rename_i other
    rw [if_neg other] at e
    exact past m k e

/-- R162: a classifier without a slot claims one that is not FILLING. -/
theorem captureInv_claim {k : Fin 4} {r : CaptureRecord} {window : List Byte} (free : (s.cls.get l).slot = none)
    (taken : ∀ r bs, s.capture.slot k ≠ .filling r bs) (arrival : r.arrival = l) (slot : c.slot = some k)
    (state : c.state = .carrying ∨ c.state = .draining) (cls : t.cls = s.cls.set l c)
    (capture : t.capture = s.capture.claim k r window) : t.CaptureInv := by
  obtain ⟨fills, filled, past, once, claimed⟩ := h
  have slots : ∀ m, (t.cls.get m).slot = if m = l then some k else (s.cls.get m).slot := fun m => by
    rw [cls, PerLine.get_set]
    split
    · exact slot
    · rfl
  unfold State.CaptureInv
  rw [capture]
  refine ⟨fun m j e => ?_, fun j r' bs e => ?_, fun m j e => ?_, ?_, fun j => ?_⟩
  · rw [slots] at e
    rw [CaptureStore.slot_claim]
    split at e
    · obtain rfl := Option.some.inj e
      rename_i same
      rw [if_pos rfl]
      exact ⟨r, window, rfl, arrival.trans same.symm⟩
    · obtain ⟨r', bs, at_j, from_m⟩ := fills m j e
      have other : j ≠ k := by
        rintro rfl
        exact taken _ _ at_j
      rw [if_neg other]
      exact ⟨r', bs, at_j, from_m⟩
  · rw [CaptureStore.slot_claim] at e
    rw [slots]
    split at e
    · rename_i same
      obtain ⟨rfl, -⟩ := Slot.filling.inj e
      rw [if_pos arrival, same]
    · have holds := filled j r' bs e
      have other : r'.arrival ≠ l := by
        intro same
        rw [same, free] at holds
        exact absurd holds (by simp)
      rw [if_neg other]
      exact holds
  · rw [slots] at e
    rw [cls, PerLine.get_set]
    split
    · exact state
    · rename_i other
      rw [if_neg other] at e
      exact past m j e
  · show (s.capture.claims.filter (· ≠ k) ++ [k]).Nodup
    rw [List.nodup_append]
    refine ⟨once.filter _, List.nodup_singleton k, fun a ha b hb => ?_⟩
    rw [List.mem_singleton.1 hb]
    simpa using (List.mem_filter.1 ha).2
  · show j ∈ s.capture.claims.filter (· ≠ k) ++ [k] ↔ _
    rw [CaptureStore.slot_claim, List.mem_append, List.mem_filter, List.mem_singleton, claimed]
    by_cases same : j = k <;> simp [same]

/-- A slot that is not FILLING for any classifier becomes EMPTY. -/
theorem captureInv_empty1 {k : Fin 4} (unheld : ∀ m, (t.cls.get m).slot ≠ some k)
    (slots : ∀ m, (t.cls.get m).slot = (s.cls.get m).slot ∨ (s.cls.get m).slot = some k ∧ (t.cls.get m).slot = none)
    (states : ∀ m, (t.cls.get m).slot ≠ none → (t.cls.get m).state = (s.cls.get m).state)
    (capture : t.capture = s.capture.empty1 k) : t.CaptureInv := by
  obtain ⟨fills, filled, past, once, claimed⟩ := h
  have before : ∀ m j, (t.cls.get m).slot = some j → j ≠ k ∧ (s.cls.get m).slot = some j := fun m j e => by
    refine ⟨?_, ?_⟩
    · rintro rfl
      exact unheld m e
    · rcases slots m with same | ⟨-, gone⟩
      · exact same ▸ e
      · exact absurd (gone.symm.trans e) (by simp)
  unfold State.CaptureInv
  rw [capture]
  refine ⟨fun m j e => ?_, fun j r bs e => ?_, fun m j e => ?_, once.filter _, fun j => ?_⟩
  · obtain ⟨other, held⟩ := before m j e
    rw [CaptureStore.slot_empty1, if_neg other]
    exact fills m j held
  · rw [CaptureStore.slot_empty1] at e
    split at e
    · exact absurd e (by simp)
    · rename_i other
      have holds := filled j r bs e
      rcases slots r.arrival with same | ⟨held, -⟩
      · exact same.trans holds
      · exact absurd (Option.some.inj (holds.symm.trans held)) other
  · rw [states m (by simp [e])]
    exact past m j (before m j e).2
  · show j ∈ s.capture.claims.filter (· ≠ k) ↔ _
    rw [CaptureStore.slot_empty1, List.mem_filter, claimed]
    by_cases same : j = k <;> simp [same]

/-- R165: a classifier gives up the slot it holds, if any, which becomes EMPTY. -/
theorem captureInv_giveUp (gone : c.slot = none) (cls : t.cls = s.cls.set l c)
    (capture : t.capture = match (s.cls.get l).slot with
      | some k => s.capture.empty1 k
      | none => s.capture) : t.CaptureInv := by
  cases holds : (s.cls.get l).slot with
  | none =>
    rw [holds] at capture
    exact captureInv_keep h cls capture (gone.trans holds.symm) fun n => absurd gone n
  | some k =>
    rw [holds] at capture
    have others : ∀ m, m ≠ l → t.cls.get m = s.cls.get m := fun m other => by
      rw [cls, PerLine.get_set_ne _ _ _ _ other]
    have own : (t.cls.get l).slot = none := by rw [cls, PerLine.get_set_same, gone]
    refine captureInv_empty1 h (fun m e => ?_) (fun m => ?_) (fun m n => ?_) capture
    · by_cases same : m = l
      · rw [same, own] at e
        exact absurd e (by simp)
      · rw [others m same] at e
        exact same (slot_inj h e holds)
    · by_cases same : m = l
      · rw [same]
        exact .inr ⟨holds, own⟩
      · rw [others m same]
        exact .inl rfl
    · by_cases same : m = l
      · rw [same] at n
        exact absurd own n
      · rw [others m same]

/-- R165: the slot that a classifier held has become HELD. -/
theorem captureInv_hold {k : Fin 4} {r : CaptureRecord} {bs : List Byte} (holds : (s.cls.get l).slot = some k)
    (gone : c.slot = none) (cls : t.cls = s.cls.set l c) (capture : t.capture = s.capture.setSlot k (.held r bs)) :
    t.CaptureInv := by
  have inj := fun m => slot_inj h (l := m) (m := l) (k := k)
  obtain ⟨fills, filled, past, once, claimed⟩ := h
  have slots : ∀ m, (t.cls.get m).slot = if m = l then none else (s.cls.get m).slot := fun m => by
    rw [cls, PerLine.get_set]
    split
    · exact gone
    · rfl
  unfold State.CaptureInv
  rw [capture]
  refine ⟨fun m j e => ?_, fun j r' bs' e => ?_, fun m j e => ?_, once, fun j => ?_⟩
  · rw [slots] at e
    split at e
    · exact absurd e (by simp)
    · rename_i other
      have free : j ≠ k := by
        rintro rfl
        exact other (inj m e holds)
      rw [CaptureStore.slot_setSlot_ne _ _ _ _ free]
      exact fills m j e
  · rw [CaptureStore.slot_setSlot] at e
    split at e
    · exact absurd e (by simp)
    · rename_i free
      have held := filled j r' bs' e
      rw [slots]
      split
      · rename_i same
        rw [same, holds] at held
        exact absurd (Option.some.inj held).symm free
      · exact held
  · rw [slots] at e
    rw [cls, PerLine.get_set]
    split at e
    · exact absurd e (by simp)
    · rename_i other
      rw [if_neg other]
      exact past m j e
  · show j ∈ s.capture.claims ↔ _
    rw [CaptureStore.slot_setSlot, claimed]
    split
    · rename_i same
      obtain ⟨r', bs', at_k, -⟩ := fills l k holds
      rw [same, at_k]
      simp
    · rfl

/-- R164: a byte passed to a slot leaves the linkage as it is. -/
theorem captureInv_pass {k : Fin 4} {b : Byte} (cls : t.cls = s.cls) (capture : t.capture = s.capture.pass k b) :
    t.CaptureInv := by
  obtain ⟨fills, filled, past, once, claimed⟩ := h
  have record : ∀ j r bs, s.capture.slot j = .filling r bs → ∃ bs', (s.capture.pass k b).slot j = .filling r bs' := by
    intro j r bs e
    rw [CaptureStore.slot_pass]
    split
    · rename_i same
      rw [← same, e]
      exact ⟨_, rfl⟩
    · exact ⟨bs, e⟩
  have back : ∀ j r bs, (s.capture.pass k b).slot j = .filling r bs → ∃ bs', s.capture.slot j = .filling r bs' := by
    intro j r bs e
    rw [CaptureStore.slot_pass] at e
    split at e
    · rename_i same
      rw [same]
      split at e
      · obtain ⟨rfl, -⟩ := Slot.filling.inj e
        exact ⟨_, ‹_›⟩
      · exact ⟨bs, e⟩
    · exact ⟨bs, e⟩
  have empty : ∀ j, (s.capture.pass k b).slot j = .empty ↔ s.capture.slot j = .empty := by
    intro j
    rw [CaptureStore.slot_pass]
    split
    · rename_i same
      rw [same]
      split <;> simp_all
    · rfl
  unfold State.CaptureInv
  rw [cls, capture]
  refine ⟨fun m j e => ?_, fun j r bs e => ?_, past, ?_, fun j => ?_⟩
  · obtain ⟨r, bs, at_j, from_m⟩ := fills m j e
    obtain ⟨bs', still⟩ := record j r bs at_j
    exact ⟨r, bs', still, from_m⟩
  · obtain ⟨bs', at_j⟩ := back j r bs e
    exact filled j r bs' at_j
  · rw [CaptureStore.claims_pass]
    exact once
  · rw [CaptureStore.claims_pass, claimed, Ne, Ne, empty]

end

/-- With every slot EMPTY and no slot number left, the linkage holds. -/
theorem captureInv_empty {s : State} (capture : s.capture = CaptureStore.empty)
    (slots : ∀ l, (s.cls.get l).slot = none) : s.CaptureInv := by
  have empty : ∀ k, CaptureStore.empty.slot k = .empty := by decide
  unfold State.CaptureInv
  rw [capture]
  refine ⟨fun l k e => ?_, fun k r bs e => ?_, fun l k e => ?_, List.nodup_nil, fun k => ?_⟩
  · rw [slots] at e
    exact absurd e (by simp)
  · rw [empty] at e
    exact absurd e (by simp)
  · rw [slots] at e
    exact absurd e (by simp)
  · rw [empty]
    simp [CaptureStore.empty]

end Sys2Proof.Machine
end

section
/-! SUPPORT. Reception: which operation a received symbol is, and what the delimiter and the classifier of a line make
of a frame's start, bytes, end and abort, each said once as an equation on the whole state. -/

namespace Sys2Proof.Machine

variable (s : State) (l : Line)

/-! ## The line state machine -/

theorem exec_symbol {s : State} (sym : Symbol) (awake : s.resetLow = false) :
    exec (.symbolReceived l sym) s = .next (receive l sym s) :=
  congrArg _ (awake_eq s _ awake)

theorem receive_down_idle (down : (s.port.get l).line = .down) :
    receive l .idle s = s.setPort l { s.port.get l with line := .aligning, alignCount := 1 } := by
  simp [receive, down]

theorem receive_down_other (down : (s.port.get l).line = .down) {sym : Symbol} (other : sym ≠ .idle) :
    receive l sym s = s := by
  cases sym <;> simp_all [receive]

theorem receive_aligning_idle (aligning : (s.port.get l).line = .aligning) :
    receive l .idle s =
      if (s.port.get l).alignCount + 1 < 16 then
        s.setPort l { s.port.get l with alignCount := (s.port.get l).alignCount + 1 }
      else lineUp l s := by
  simp [receive, aligning]

theorem receive_aligning_invalid (aligning : (s.port.get l).line = .aligning) :
    receive l .invalid s = s.setPort l { s.port.get l with line := .down, alignCount := 0 } := by
  simp [receive, aligning]

theorem receive_aligning_other (aligning : (s.port.get l).line = .aligning) {sym : Symbol} (other : sym ≠ .idle)
    (valid : sym ≠ .invalid) : receive l sym s = s.setPort l { s.port.get l with alignCount := 0 } := by
  cases sym <;> simp_all [receive]

/-- What a symbol is to a line: nothing, a move of the counts of a line that is not UP, line up, line down, or a symbol
for the delimiter of a line that is UP. -/
theorem receive_cases (sym : Symbol) :
    receive l sym s = s ∨
      (∃ p, (s.port.get l).line ≠ .up ∧ p.line ≠ .up ∧ p.rx = (s.port.get l).rx ∧ receive l sym s = s.setPort l p) ∨
      receive l sym s = lineUp l s ∨ ((s.port.get l).line = .up ∧ receive l sym s = lineDown l s) ∨
      ((s.port.get l).line = .up ∧
        receive l sym s = delimit l sym (s.setPort l ((s.port.get l).afterSymbol sym))) := by
  cases state : (s.port.get l).line with
  | down =>
    by_cases h : sym = .idle
    · subst h
      refine .inr (.inl ⟨_, ?_, ?_, ?_, receive_down_idle s l state⟩) <;> simp
    · exact .inl (receive_down_other s l state h)
  | aligning =>
    by_cases h : sym = .idle
    · subst h
      rw [receive_aligning_idle s l state]
      split
      · exact .inr (.inl ⟨{ s.port.get l with alignCount := (s.port.get l).alignCount + 1 }, by simp, by simp [state],
          rfl, rfl⟩)
      · exact .inr (.inr (.inl rfl))
    · by_cases v : sym = .invalid
      · subst v
        refine .inr (.inl ⟨_, ?_, ?_, ?_, receive_aligning_invalid s l state⟩) <;> simp
      · refine .inr (.inl ⟨_, ?_, ?_, ?_, receive_aligning_other s l state h v⟩) <;> simp [state]
  | up =>
    by_cases stays : sym ≠ .invalid ∨ (s.port.get l).errorCount < 3
    · exact .inr (.inr (.inr (.inr ⟨rfl, receive_up s l sym state stays⟩)))
    · push Not at stays
      obtain ⟨rfl, errors⟩ := stays
      refine .inr (.inr (.inr (.inl ⟨rfl, ?_⟩)))
      simp only [receive, state]
      rw [if_neg (by omega)]

@[simp] theorem afterValid_rx (p : LinePort) : p.afterValid.rx = p.rx := by
  unfold LinePort.afterValid
  split <;> rfl

@[simp] theorem afterValid_line (p : LinePort) : p.afterValid.line = p.line := by
  unfold LinePort.afterValid
  split <;> rfl

@[simp] theorem afterSymbol_rx (p : LinePort) (sym : Symbol) : (p.afterSymbol sym).rx = p.rx := by
  cases sym <;> simp [LinePort.afterSymbol]

@[simp] theorem afterSymbol_line (p : LinePort) (sym : Symbol) : (p.afterSymbol sym).line = p.line := by
  cases sym <;> simp [LinePort.afterSymbol]

theorem afterSymbol_valid (p : LinePort) {sym : Symbol} (valid : sym ≠ .invalid) :
    p.afterSymbol sym = p.afterValid := by
  cases sym with
  | invalid => exact absurd rfl valid
  | _ => rfl

/-! ## The delimiter -/

theorem delimit_idle_start (idle : (s.port.get l).rx.state = .idle) : delimit l .startSym s = frameStart l s := by
  simp [delimit, idle]

theorem delimit_idle_other (idle : (s.port.get l).rx.state = .idle) {sym : Symbol} (other : sym ≠ .startSym) :
    delimit l sym s = s := by
  cases sym <;> simp_all [delimit]

theorem delimit_end (inFrame : (s.port.get l).rx.state ≠ .idle) : delimit l .endSym s = frameEnd l s := by
  unfold delimit
  split <;> simp_all

theorem delimit_cut (inFrame : (s.port.get l).rx.state ≠ .idle) {sym : Symbol} (cuts : sym = .idle ∨ sym = .abortSym) :
    delimit l sym s = frameAbort l s := by
  unfold delimit
  rcases cuts with rfl | rfl <;> split <;> simp_all

theorem delimit_restart (inFrame : (s.port.get l).rx.state ≠ .idle) :
    delimit l .startSym s = frameStart l (frameAbort l s) := by
  unfold delimit
  split <;> simp_all

/-- What a symbol is to the delimiter of a line: nothing and a frame start outside a frame, a byte, the end, the abort
or a restart inside one. -/
theorem delimit_cases (sym : Symbol) :
    ((s.port.get l).rx.state = .idle ∧ (delimit l sym s = s ∨ delimit l sym s = frameStart l s)) ∨
      ((s.port.get l).rx.state ≠ .idle ∧
        ((∃ b bad, delimit l sym s = frameByte l b bad s) ∨ delimit l sym s = frameEnd l s ∨
          delimit l sym s = frameAbort l s ∨ delimit l sym s = frameStart l (frameAbort l s))) := by
  by_cases idle : (s.port.get l).rx.state = .idle
  · refine .inl ⟨idle, ?_⟩
    by_cases start : sym = .startSym
    · subst start
      exact .inr (delimit_idle_start s l idle)
    · exact .inl (delimit_idle_other s l idle start)
  · refine .inr ⟨idle, ?_⟩
    cases sym with
    | data b => exact .inl ⟨b, _, delimit_byte s l (.data b) b idle (.inl rfl)⟩
    | invalid => exact .inl ⟨_, _, delimit_byte s l .invalid 0#8 idle (.inr ⟨rfl, rfl⟩)⟩
    | endSym => exact .inr (.inl (delimit_end s l idle))
    | idle => exact .inr (.inr (.inl (delimit_cut s l idle (.inl rfl))))
    | abortSym => exact .inr (.inr (.inl (delimit_cut s l idle (.inr rfl))))
    | startSym => exact .inr (.inr (.inr (delimit_restart s l idle)))

/-! ## Frame start and abort -/

theorem frameStart_eq :
    frameStart l s =
      { s with
        port := s.port.set l { s.port.get l with rx := { Reception.none with state := .header } }
        cls := s.cls.set l
          { Classifier.empty with
            state := .judging, bank := s.store.active, generation := s.store.generation, start := s.timebase } } := rfl

/-- R165: the capture store once the slot a frame holds, if any, has become EMPTY. -/
def CaptureStore.giveUp (c : CaptureStore) : Option (Fin 4) → CaptureStore
  | some k => c.empty1 k
  | none => c

theorem slot_giveUp (c : CaptureStore) (o : Option (Fin 4)) (k : Fin 4) :
    (c.giveUp o).slot k = if o = some k then .empty else c.slot k := by
  cases o with
  | none => rfl
  | some j =>
    refine (CaptureStore.slot_empty1 c k j).trans ?_
    simp [eq_comm]

theorem claims_giveUp (c : CaptureStore) (o : Option (Fin 4)) :
    (c.giveUp o).claims = c.claims.filter fun k => o ≠ some k := by
  cases o with
  | none => simp [CaptureStore.giveUp]
  | some j =>
    show c.claims.filter (· ≠ j) = _
    simp [eq_comm]

theorem giveUp_short {c : CaptureStore} (h : c.Short) (o : Option (Fin 4)) : (c.giveUp o).Short := by
  cases o with
  | none => exact h
  | some k => exact h.empty1 k

theorem dropSlot_eq : dropSlot l s = { s with capture := s.capture.giveUp (s.cls.get l).slot } := by
  unfold dropSlot
  cases (s.cls.get l).slot <;> rfl

/-- R79: the pool once the reservation a frame holds, if any, has been given back. -/
def Pool.giveBack (p : Pool) (e : Line) : Option Descriptor → Pool
  | some d => p.give e d.cells
  | none => p

theorem giveBack_returned (p : Pool) (e : Line) (c : Classifier) :
    p.Returned e c.cells (p.giveBack e c.reservation) := by
  unfold Classifier.cells Pool.giveBack
  cases c.reservation with
  | none => exact .none e p
  | some d => exact .give e d.cells p

theorem giveBack_armed (p : Pool) (e : Line) (o : Option Descriptor) :
    (p.giveBack e o).armed = (p.armed || (o.isSome && decide (64 < (p.giveBack e o).free))) := by
  cases o with
  | none => simp [Pool.giveBack]
  | some d => rfl

theorem dropReservation_giveBack :
    dropReservation l s = { s with pool := s.pool.giveBack l.opposite (s.cls.get l).reservation } := by
  unfold dropReservation
  cases (s.cls.get l).reservation <;> rfl

/-- R51, R52: the phase once the frame of line `l` has ended: a frame in classification has left it. -/
def State.phaseEnding (s : State) (l : Line) : Phase :=
  if (s.cls.get l).state = .judging then s.phaseLeaving l else s.store.phase

theorem leaveIfJudging_eq :
    leaveIfJudging l s = { s with store := { s.store with phase := s.phaseEnding l } } := by
  unfold leaveIfJudging State.phaseEnding
  split
  · exact leaveClassification_eq s l
  · rfl

theorem classifierAbort_eq :
    classifierAbort l s =
      { s with
        cls := s.cls.set l Classifier.empty
        store := { s.store with phase := s.phaseEnding l }
        pool := s.pool.giveBack l.opposite (s.cls.get l).reservation
        capture := s.capture.giveUp (s.cls.get l).slot } := by
  unfold classifierAbort
  rw [leaveIfJudging_eq, dropReservation_giveBack, dropSlot_eq]
  rfl

theorem frameAbort_eq :
    frameAbort l s =
      { s with
        port := s.port.set l { s.port.get l with rx := Reception.none }
        cls := s.cls.set l Classifier.empty
        store := { s.store with phase := s.phaseEnding l }
        pool := s.pool.giveBack l.opposite (s.cls.get l).reservation
        capture := s.capture.giveUp (s.cls.get l).slot } := by
  unfold frameAbort
  rw [classifierAbort_eq]
  rfl

/-! ## Bytes -/

/-- R164: the capture store once a byte has passed to the slot a frame holds, if any. -/
def CaptureStore.passTo (c : CaptureStore) (b : Byte) : Option (Fin 4) → CaptureStore
  | some k => c.pass k b
  | none => c

theorem passToSlot_eq (b : Byte) :
    passToSlot l b s = { s with capture := s.capture.passTo b (s.cls.get l).slot } := by
  unfold passToSlot
  cases (s.cls.get l).slot <;> rfl

/-- A frame with one byte more, before the delimiter looks at its count. -/
def State.withFrameByte (s : State) (l : Line) (b : Byte) (bad : Bool) : State :=
  { s with
    port := s.port.set l { s.port.get l with rx := (s.port.get l).rx.push b bad }
    capture := s.capture.passTo b (s.cls.get l).slot }

@[simp] theorem withFrameByte_rx (b : Byte) (bad : Bool) :
    ((s.withFrameByte l b bad).port.get l).rx = (s.port.get l).rx.push b bad := by
  simp [State.withFrameByte]

theorem push_count (r : Reception) (b : Byte) (bad : Bool) : (r.push b bad).count = min (r.count + 1) 2047 := rfl

/-- R8 to R10: a byte is counted and kept, and the 16th of a header and the 64th of an inspection complete it. -/
theorem frameByte_eq (b : Byte) (bad : Bool) :
    frameByte l b bad s =
      if (s.port.get l).rx.state = .header ∧ (s.port.get l).rx.count = 15 then
        headerComplete l (s.withFrameByte l b bad)
      else if (s.port.get l).rx.state = .inspect ∧ (s.port.get l).rx.count = 63 then
        inspectionComplete l (s.withFrameByte l b bad)
      else s.withFrameByte l b bad := by
  have passed : passToSlot l b (s.setRx l ((s.port.get l).rx.push b bad)) = s.withFrameByte l b bad :=
    passToSlot_eq _ l b
  have at16 : ((s.port.get l).rx.push b bad).state = .header ∧ ((s.port.get l).rx.push b bad).count = 16 ↔
      (s.port.get l).rx.state = .header ∧ (s.port.get l).rx.count = 15 := by
    rw [push_count]
    exact and_congr_right fun _ => by omega
  have at64 : ((s.port.get l).rx.push b bad).state = .inspect ∧ ((s.port.get l).rx.push b bad).count = 64 ↔
      (s.port.get l).rx.state = .inspect ∧ (s.port.get l).rx.count = 63 := by
    rw [push_count]
    exact and_congr_right fun _ => by omega
  unfold frameByte
  simp only [passed, at16, at64]

/-! ## Frame end -/

/-- A frame of line `l` that has ended outside INSPECT, before its classifier acts: its delimiter is IDLE and keeps the
window, and the frame is counted as received (R10, R12). -/
def State.ended (s : State) (l : Line) (p : LinePort) : State :=
  { s with
    port := s.port.set l
      { p with rx := { (s.port.get l).rx with state := .idle, bytes := (s.port.get l).rx.bytes.take 64 } }
    counters := s.countedAtEnd l }

theorem frameEnd_eq (notInspect : (s.port.get l).rx.state ≠ .inspect) :
    frameEnd l s =
      classifierEnd l (endVerdict (s.port.get l).rx) (s.port.get l).rx.bytes (s.ended l (s.port.get l)) := by
  unfold frameEnd
  simp only [notInspect, if_false]
  rfl

theorem frameEnd_inspect (inspect : (s.port.get l).rx.state = .inspect) :
    frameEnd l s =
      classifierEnd l (endVerdict ((inspectionComplete l s).port.get l).rx)
        ((inspectionComplete l s).port.get l).rx.bytes
        ((inspectionComplete l s).ended l ((inspectionComplete l s).port.get l)) := by
  unfold frameEnd
  simp only [inspect, if_true]
  rfl

/-- END of a frame on an UP line, outside INSPECT. -/
theorem exec_end {s : State} (awake : s.resetLow = false) (up : (s.port.get l).line = .up)
    (inFrame : (s.port.get l).rx.state ≠ .idle) (notInspect : (s.port.get l).rx.state ≠ .inspect) :
    exec (.symbolReceived l .endSym) s =
      .next (classifierEnd l (endVerdict (s.port.get l).rx) (s.port.get l).rx.bytes
        (s.ended l (s.port.get l).afterValid)) := by
  have rx : ((s.setPort l (s.port.get l).afterValid).port.get l).rx = (s.port.get l).rx := by simp
  have port : (s.setPort l (s.port.get l).afterValid).port.get l = (s.port.get l).afterValid := by simp
  have counted : (s.setPort l (s.port.get l).afterValid).countedAtEnd l = s.countedAtEnd l := by
    simp only [State.countedAtEnd, rx, setPort_counters]
  have same : (s.setPort l (s.port.get l).afterValid).ended l (s.port.get l).afterValid =
      s.ended l (s.port.get l).afterValid := by
    unfold State.ended
    rw [rx, counted, setPort_port, PerLine.set_set]
    rfl
  rw [exec_symbol l .endSym awake, receive_up s l .endSym up (.inl (by simp)), afterSymbol_valid _ (by simp),
    delimit_end _ l (by rwa [rx]), frameEnd_eq _ l (by rwa [rx]), rx, port, same]

/-- R75: a marked frame gives up its cells, counted FLUSH, and its slot. -/
theorem classifierEnd_marked (marked : (s.cls.get l).resetMark = true) (v : EndVerdict) (bytes : List Byte) :
    classifierEnd l v bytes s =
      { s with
        cls := s.cls.set l Classifier.empty
        store := { s.store with phase := s.phaseEnding l }
        pool := s.pool.giveBack l.opposite (s.cls.get l).reservation
        capture := s.capture.giveUp (s.cls.get l).slot
        counters := match (s.cls.get l).reservation with
          | some d => s.counters.add (.egress l.opposite d.cls .flush) 1
          | none => s.counters } := by
  unfold classifierEnd endMarked
  simp only [marked, if_true, Bool.not_true, Bool.false_and, Bool.false_eq_true, if_false]
  rw [leaveIfJudging_eq]
  dsimp only
  cases reservation : (s.cls.get l).reservation <;>
    simp only [dropSlot_eq, dropReservation_giveBack, count_eq, reservation] <;> rfl

/-- R74: an unmarked frame that fails gives up its slot. -/
theorem classifierEnd_failed (unmarked : (s.cls.get l).resetMark = false) {v : EndVerdict} (failed : v ≠ .good)
    (bytes : List Byte) :
    classifierEnd l v bytes s =
      (dropSlot l (endUnmarked l v bytes (leaveIfJudging l s))).setCls l Classifier.empty := by
  unfold classifierEnd
  simp [unmarked, failed]

/-- R73: the slot of an unmarked good frame is settled as HELD. -/
theorem classifierEnd_good (unmarked : (s.cls.get l).resetMark = false) (bytes : List Byte) :
    classifierEnd l .good bytes s =
      (holdSlot l (endUnmarked l .good bytes (leaveIfJudging l s))).setCls l Classifier.empty := by
  unfold classifierEnd
  simp [unmarked]

theorem holdSlot_none (none : (s.cls.get l).slot = none) : holdSlot l s = s := by simp [holdSlot, none]

theorem holdSlot_filling {k : Fin 4} {r : CaptureRecord} {bs : List Byte} (holds : (s.cls.get l).slot = some k)
    (filling : s.capture.slot k = .filling r bs) :
    holdSlot l s =
      notify (.captureTaken k) s.timebase
        { s with
          capture := s.capture.setSlot k (.held r bs)
          counters := s.counters.add (.capture .taken) 1 } := by
  unfold holdSlot
  simp only [holds, filling]
  rfl

theorem holdSlot_other {k : Fin 4} (holds : (s.cls.get l).slot = some k)
    (other : ∀ r bs, s.capture.slot k ≠ .filling r bs) : holdSlot l s = s := by
  unfold holdSlot
  simp only [holds]
  split
  · rename_i r bs at_k
    exact absurd at_k (other r bs)
  · rfl
  · rfl

theorem endUnmarked_gathering {v : EndVerdict} (gathering : (s.cls.get l).state = .gathering) (failed : v ≠ .good)
    (bytes : List Byte) : endUnmarked l v bytes s = count (.arrival l v.counter) 1 s := by
  unfold endUnmarked
  cases v <;> simp_all [EndVerdict.counter]

theorem endUnmarked_offered (gathering : (s.cls.get l).state = .gathering) (bytes : List Byte) :
    endUnmarked l .good bytes s = offerRequest l bytes s := by
  unfold endUnmarked
  simp only [gathering]

theorem endUnmarked_judging (judging : (s.cls.get l).state = .judging) (v : EndVerdict) (bytes : List Byte) :
    endUnmarked l v bytes s = count (.arrival l .length) 1 s := by
  unfold endUnmarked
  simp only [judging]

theorem endUnmarked_draining (draining : (s.cls.get l).state = .draining) (v : EndVerdict) (bytes : List Byte) :
    endUnmarked l v bytes s = s := by
  unfold endUnmarked
  simp only [draining]

theorem endUnmarked_carrying {v : EndVerdict} (carrying : (s.cls.get l).state = .carrying) (failed : v ≠ .good)
    (bytes : List Byte) :
    endUnmarked l v bytes s = count (.arrival l v.counter) 1 (dropReservation l s) := by
  unfold endUnmarked
  cases v <;> simp_all

theorem endUnmarked_queued {d : Descriptor} (carrying : (s.cls.get l).state = .carrying)
    (reservation : (s.cls.get l).reservation = some d) (bytes : List Byte) :
    endUnmarked l .good bytes s =
      queueEntry l d bytes (s.setCls l { s.cls.get l with reservation := none }) := by
  unfold endUnmarked
  simp only [carrying, reservation]

end Sys2Proof.Machine
end

section
/-! SUPPORT. Header complete and inspection complete: the judgement of a frame and what becomes of it, case by case
(R60 to R72). -/

namespace Sys2Proof.Machine

/-! ## The judgement decides -/

/-- A decided outcome: PASS with a class, or a drop that counts on the arrival line (Table 4-5). -/
def FrameOutcome.Decided (o : FrameOutcome) : Prop :=
  (∃ c, o = .pass c) ∨ ∃ r, o = .drop r ∧ r.arrivalCounter.isSome = true

/-- Step 6 leaves a frame PENDING or decides it. -/
theorem scanRules_outcome (arrival : Line) (total : Nat) (window : List Byte) (rs : List (Fin 8 × RuleEntry)) :
    ∀ t hits, (scanRules arrival total window rs t hits).outcome = .pending ∨
      (scanRules arrival total window rs t hits).outcome.Decided := by
  induction rs with
  | nil => exact fun _ _ => .inl rfl
  | cons r rs ih =>
    obtain ⟨i, r⟩ := r
    intro t hits
    unfold scanRules
    split
    · split
      · exact .inr (.inr ⟨_, rfl, rfl⟩)
      · exact .inr (.inl ⟨_, rfl⟩)
      · exact ih _ _
    · exact ih _ _

theorem stationOutcome_decided (b : Bank) (e : StationEntry) (f : HeaderFacts) : (b.stationOutcome e f).Decided := by
  unfold Bank.stationOutcome
  split
  · exact .inr ⟨_, rfl, rfl⟩
  · exact .inl ⟨_, rfl⟩
  · exact .inl ⟨_, rfl⟩

theorem lastSteps_decided (b : Bank) (arrival : Line) (f : HeaderFacts) : (b.lastSteps arrival f).1.Decided := by
  unfold Bank.lastSteps
  split
  · split
    · exact .inl ⟨_, rfl⟩
    · exact .inr ⟨_, rfl, rfl⟩
  · split
    · exact .inl ⟨_, rfl⟩
    · exact .inr ⟨_, rfl, rfl⟩

/-- R68: steps 6 to 9 leave no frame PENDING. -/
theorem judge_decided (b : Bank) (arrival : Line) (f : HeaderFacts) (window : List Byte) :
    (b.judge arrival f window).outcome.Decided := by
  unfold Bank.judge
  dsimp only
  split
  · rename_i decided
    exact (scanRules_outcome arrival _ window _ _ _).resolve_left decided
  · split
    · exact stationOutcome_decided b _ f
    · exact lastSteps_decided b arrival f

/-- R60: the header steps never pass a frame, and every drop of theirs counts on the arrival line. -/
theorem judgeHeader_cases (identity : StationId) (f : HeaderFacts) :
    (∃ r k, judgeHeader identity f = .drop r ∧ r.arrivalCounter = some k) ∨ judgeHeader identity f = .pending ∨
      judgeHeader identity f = .management := by
  unfold judgeHeader
  split
  · exact .inl ⟨_, _, rfl, rfl⟩
  · split
    · split
      · exact .inr (.inr rfl)
      · exact .inl ⟨_, _, rfl, rfl⟩
    · split
      · exact .inl ⟨_, _, rfl, rfl⟩
      · split
        · exact .inl ⟨_, _, rfl, rfl⟩
        · exact .inr (.inl rfl)

variable (s : State) (l : Line)

/-! ## Counting of drops and hits -/

theorem countDrop_arrival (c : Option TrafficClass) {r : DropReason} {k : ArrivalCounter}
    (counts : r.arrivalCounter = some k) :
    countDrop l c r s = { s with counters := s.counters.add (.arrival l k) 1 } := by
  unfold countDrop
  simp only [counts]
  rfl

/-- The counters once each of these hits has added 1. -/
def Counters.addHits (b : Counters) (hits : List HitCounter) : Counters :=
  hits.foldl (fun b h => b.add (.hit h) 1) b

theorem countHits_eq (hits : List HitCounter) :
    countHits hits s = { s with counters := s.counters.addHits hits } := by
  unfold countHits Counters.addHits
  induction hits generalizing s with
  | nil => rfl
  | cons h hits ih =>
    rw [List.foldl_cons, ih]
    rfl

theorem read_addHits (hits : List HitCounter) (id : CounterId) : ∀ b : Counters,
    (b.addHits hits).read id = (b.read id).add (hits.countP fun h => id = .hit h) := by
  induction hits with
  | nil => exact fun b => (Counter.add_zero _).symm
  | cons h hits ih =>
    intro b
    show ((b.add (.hit h) 1).addHits hits).read id = _
    rw [ih, Counters.read_add, List.countP_cons]
    by_cases same : id = .hit h
    · simp only [same, if_true, decide_true, Counter.add_add, Nat.add_comm]
    · simp [same]

theorem read_addHits_hit (b : Counters) (hits : List HitCounter) (h : HitCounter) :
    (b.addHits hits).read (.hit h) = (b.read (.hit h)).add (hits.count h) := by
  rw [read_addHits, List.count]
  congr 1
  refine List.countP_congr fun x _ => ?_
  rw [decide_eq_true_eq, beq_iff_eq, CounterId.hit.injEq]
  exact eq_comm

theorem read_addHits_other (b : Counters) (hits : List HitCounter) {id : CounterId} (other : ∀ h, id ≠ .hit h) :
    (b.addHits hits).read id = b.read id := by
  rw [read_addHits]
  simp [other, Counter.add_zero]

/-! ## Header complete -/

/-- R61: a frame dropped at its header is counted and drained, and leaves classification. -/
theorem classifierHeader_drop (f : HeaderFacts) {r : DropReason} {k : ArrivalCounter}
    (outcome : judgeHeader (s.store.bank (s.cls.get l).bank).identity f = .drop r)
    (counts : r.arrivalCounter = some k) :
    classifierHeader l f s =
      { s with
        cls := s.cls.set l { s.cls.get l with facts := some f, outcome := .drop r, state := .draining }
        store := { s.store with phase := s.phaseLeaving l }
        counters := s.counters.add (.arrival l k) 1 } := by
  unfold classifierHeader
  simp only [outcome]
  rw [countDrop_arrival _ l none counts, leaveClassification_eq]
  rfl

/-- R61: any other frame stays in classification with its facts and outcome recorded. -/
theorem classifierHeader_kept (f : HeaderFacts)
    (outcome : judgeHeader (s.store.bank (s.cls.get l).bank).identity f = .pending ∨
      judgeHeader (s.store.bank (s.cls.get l).bank).identity f = .management) :
    classifierHeader l f s =
      s.setCls l
        { s.cls.get l with
          facts := some f, outcome := judgeHeader (s.store.bank (s.cls.get l).bank).identity f } := by
  unfold classifierHeader
  rcases outcome with o | o <;> simp only [o]

/-! ## The reservation -/

/-- The occupancy reads the queue and the descriptor that the classifier of the opposite line holds. -/
theorem occupancy_congr {s t : State} (e : Line) (c : TrafficClass) (queue : t.queue e c = s.queue e c)
    (reservation : (t.cls.get e.opposite).reservation = (s.cls.get e.opposite).reservation) :
    t.occupancy e c = s.occupancy e c := by
  unfold State.occupancy
  rw [queue, reservation]

theorem reserve_queueLimit (c : TrafficClass) (total : Nat)
    (above : (s.classPol l.opposite c).cellLimit.toNat < s.occupancy l.opposite c + cellsFor total) :
    reserve l c total s =
      { s with
        cls := s.cls.set l { s.cls.get l with outcome := .drop .queueLimit, state := .draining }
        counters := s.counters.add (.egress l.opposite c .queueLimit) 1 } := by
  unfold reserve
  dsimp only
  rw [if_pos above]
  rfl

theorem reserve_granted (c : TrafficClass) (total : Nat)
    (within : s.occupancy l.opposite c + cellsFor total ≤ (s.classPol l.opposite c).cellLimit.toNat)
    (granted : grantTest s.pool s.active.devpol l.opposite (cellsFor total) = true) :
    reserve l c total s =
      { s with
        cls := s.cls.set l
          { s.cls.get l with
            state := .carrying
            reservation := some
              { arrival := l, cls := c, total := total, cells := cellsFor total, entry := none, state := .receiving,
                data := [] } }
        pool := s.pool.take l.opposite (cellsFor total) } := by
  unfold reserve
  dsimp only
  rw [if_neg (by omega), if_pos granted]
  rfl

/-- The state of a frame refused its cells, before the notice (R71, R80). -/
def State.refused (s : State) (l : Line) (c : TrafficClass) : State :=
  { s with
    cls := s.cls.set l { s.cls.get l with outcome := .drop .noCell, state := .draining }
    counters := s.counters.add (.egress l.opposite c .noCell) 1
    pool := { s.pool with armed := false } }

theorem reserve_refused (c : TrafficClass) (total : Nat)
    (within : s.occupancy l.opposite c + cellsFor total ≤ (s.classPol l.opposite c).cellLimit.toNat)
    (refused : grantTest s.pool s.active.devpol l.opposite (cellsFor total) = false) :
    reserve l c total s =
      if s.pool.armed then notify (.poolExhausted l.opposite) s.timebase (s.refused l c) else s.refused l c := by
  have unarmed : s.pool.armed = false → s.pool = { s.pool with armed := false } := fun e => by
    rcases h : s.pool with ⟨free, used, armed⟩
    rw [h] at e
    exact congrArg (Pool.mk free used) e
  unfold reserve
  dsimp only
  rw [if_neg (by omega), if_neg (by simp [refused])]
  unfold refuseCells
  cases armed : s.pool.armed with
  | true => rfl
  | false =>
    show countDrop l (some c) .noCell _ = { s.refused l c with pool := { s.pool with armed := false } }
    rw [← unarmed armed]
    rfl

/-- What a reservation does to its classifier: it ends CARRYING or DRAINING, and keeps its slot number. -/
theorem reserve_cls (c : TrafficClass) (total : Nat) :
    ∃ k, (reserve l c total s).cls = s.cls.set l k ∧ k.slot = (s.cls.get l).slot ∧
      (k.state = .carrying ∨ k.state = .draining) := by
  by_cases above : (s.classPol l.opposite c).cellLimit.toNat < s.occupancy l.opposite c + cellsFor total
  · rw [reserve_queueLimit s l c total above]
    exact ⟨_, rfl, rfl, .inr rfl⟩
  · cases granted : grantTest s.pool s.active.devpol l.opposite (cellsFor total) with
    | true =>
      rw [reserve_granted s l c total (by omega) granted]
      exact ⟨_, rfl, rfl, .inl rfl⟩
    | false =>
      rw [reserve_refused s l c total (by omega) granted]
      refine ⟨{ s.cls.get l with outcome := .drop .noCell, state := .draining }, ?_, rfl, .inr rfl⟩
      split
      · obtain ⟨sv, of, ct, e⟩ := notify_shape (s.refused l c) (.poolExhausted l.opposite) s.timebase
        rw [e]
        rfl
      · rfl

/-! ## The judgement applied -/

/-- A frame with its judgement recorded and its hits counted (R65 to R69). -/
def State.judged (s : State) (l : Line) (j : Judgement) : State :=
  { s with
    cls := s.cls.set l { s.cls.get l with outcome := j.outcome, trigger := j.trigger }
    counters := s.counters.addHits j.hits }

@[simp] theorem judged_cls (j : Judgement) :
    (s.judged l j).cls.get l = { s.cls.get l with outcome := j.outcome, trigger := j.trigger } := by
  simp [State.judged]

theorem judged_occupancy (j : Judgement) (c : TrafficClass) :
    (s.judged l j).occupancy l.opposite c = s.occupancy l.opposite c :=
  occupancy_congr l.opposite c rfl (by rw [Line.opposite_opposite, judged_cls])

theorem applyJudgement_pass (f : HeaderFacts) (j : Judgement) {c : TrafficClass} (pass : j.outcome = .pass c) :
    applyJudgement l f j s = reserve l c (20 + f.payload) (s.judged l j) := by
  unfold applyJudgement
  simp only [pass, countHits_eq, State.judged]
  rfl

theorem applyJudgement_drop (f : HeaderFacts) (j : Judgement) {r : DropReason} {k : ArrivalCounter}
    (drop : j.outcome = .drop r) (counts : r.arrivalCounter = some k) :
    applyJudgement l f j s =
      { s.judged l j with
        cls := s.cls.set l { s.cls.get l with outcome := j.outcome, trigger := j.trigger, state := .draining }
        counters := (s.counters.addHits j.hits).add (.arrival l k) 1 } := by
  unfold applyJudgement
  simp only [drop, countHits_eq, State.judged]
  rw [countDrop_arrival _ l none counts]
  show ({ s with cls := _, counters := _ } : State) = _
  simp only [setCls_cls, PerLine.get_set_same, PerLine.set_set]
  rfl

/-- What a decided judgement does to its classifier: it ends CARRYING or DRAINING, and keeps its slot number. -/
theorem applyJudgement_cls (f : HeaderFacts) (j : Judgement) (decided : j.outcome.Decided) :
    ∃ k, (applyJudgement l f j s).cls = s.cls.set l k ∧ k.slot = (s.cls.get l).slot ∧
      (k.state = .carrying ∨ k.state = .draining) := by
  rcases decided with ⟨c, pass⟩ | ⟨r, drop, counts⟩
  · obtain ⟨k, cls, slot, state⟩ := reserve_cls (s.judged l j) l c (20 + f.payload)
    refine ⟨k, ?_, slot.trans (by rw [judged_cls]), state⟩
    rw [applyJudgement_pass s l f j pass, cls]
    exact PerLine.set_set _ _ _ _
  · obtain ⟨k, counts⟩ := Option.isSome_iff_exists.1 counts
    rw [applyJudgement_drop s l f j drop counts]
    exact ⟨_, rfl, rfl, .inr rfl⟩

/-- A judgement applied writes its classifier, the pool and the counters, and by a notice the service queues. -/
theorem applyJudgement_shape (f : HeaderFacts) (j : Judgement) (decided : j.outcome.Decided) :
    ∃ k po sv of ct ns, applyJudgement l f j s =
      { s with cls := s.cls.set l k, pool := po, service := sv, offers := of, counters := ct, noticeSeq := ns } := by
  rcases decided with ⟨c, pass⟩ | ⟨r, drop, counts⟩
  · rw [applyJudgement_pass s l f j pass]
    obtain ⟨k, po, sv, of, ct, ns, e⟩ := reserve_shape (s.judged l j) l c (20 + f.payload)
    refine ⟨k, po, sv, of, ct, ns, e.trans ?_⟩
    simp only [State.judged, PerLine.set_set]
  · obtain ⟨k, counts⟩ := Option.isSome_iff_exists.1 counts
    rw [applyJudgement_drop s l f j drop counts]
    exact ⟨_, _, _, _, _, _, rfl⟩

/-! ## The capture request -/

theorem requestCapture_given {k : Fin 4} (tr : Trigger) (total : Nat) (window : List Byte)
    (given : s.capture.choose s.active.devpol.captureMode = some k) :
    requestCapture l tr total window s =
      { s with
        capture := s.capture.claim k
          { arrival := l, start := (s.cls.get l).start, generation := (s.cls.get l).generation, trigger := tr,
            total := total, outcome := (s.cls.get l).outcome } window
        cls := s.cls.set l { s.cls.get l with slot := some k } } := by
  unfold requestCapture
  simp only [given]
  rfl

theorem requestCapture_missed (tr : Trigger) (total : Nat) (window : List Byte)
    (missed : s.capture.choose s.active.devpol.captureMode = none) :
    requestCapture l tr total window s = { s with counters := s.counters.add (.capture .missed) 1 } := by
  unfold requestCapture
  simp only [missed]
  rfl

/-! ## Inspection complete -/

/-- R72: a frame whose outcome is PENDING is judged, leaves classification, and its delimiter goes on in BODY or
DISCARD. -/
theorem inspectionComplete_pending {f : HeaderFacts} (outcome : (s.cls.get l).outcome = .pending)
    (facts : (s.cls.get l).facts = some f) :
    inspectionComplete l s =
      let u := leaveClassification l (inspectPending l f ((s.port.get l).rx.bytes.take 64) s)
      u.setRx l { (s.port.get l).rx with state := if (u.cls.get l).goesOn then .body else .discard } := by
  unfold inspectionComplete classifierInspect
  simp only [outcome, facts]

/-- R62: a management frame goes on in GATHERING and BODY. -/
theorem inspectionComplete_management (outcome : (s.cls.get l).outcome = .management) :
    inspectionComplete l s =
      { s with
        port := s.port.set l { s.port.get l with rx := { (s.port.get l).rx with state := .body } }
        cls := s.cls.set l { s.cls.get l with state := .gathering }
        store := { s.store with phase := s.phaseLeaving l } } := by
  unfold inspectionComplete classifierInspect
  simp only [outcome, leaveClassification_eq]
  show ({ s with port := _, cls := _, store := _ } : State) = _
  simp [State.setCls, State.setPhase, Classifier.goesOn]
  rfl

end Sys2Proof.Machine
end

section
/-! SUPPORT. What reception may change: the reach of the delimiter of a line, and its bounds and slots. -/

namespace Sys2Proof.Machine

/-! ## The reach of a received symbol -/

/-- From `s` to `t` a frame of line `l` has moved: the port of `l` but for its reception, the opposite line's port and
classifier, the cadence units and the transmitters are as they were, and the table store but for its phase. -/
structure FrameReach (l : Line) (s t : State) : Prop where
  line : (t.port.get l).line = (s.port.get l).line
  alignCount : (t.port.get l).alignCount = (s.port.get l).alignCount
  errorCount : (t.port.get l).errorCount = (s.port.get l).errorCount
  cleanCount : (t.port.get l).cleanCount = (s.port.get l).cleanCount
  port : t.port.get l.opposite = s.port.get l.opposite
  cls : t.cls.get l.opposite = s.cls.get l.opposite
  store : t.store = { s.store with phase := t.store.phase }
  timebase : t.timebase = s.timebase
  cadence : t.cadence = s.cadence
  tx : t.tx = s.tx

namespace FrameReach

variable {l : Line} {s t u : State}

theorem refl (l : Line) (s : State) : FrameReach l s s := by constructor <;> rfl

theorem trans (h : FrameReach l s t) (k : FrameReach l t u) : FrameReach l s u where
  line := k.line.trans h.line
  alignCount := k.alignCount.trans h.alignCount
  errorCount := k.errorCount.trans h.errorCount
  cleanCount := k.cleanCount.trans h.cleanCount
  port := k.port.trans h.port
  cls := k.cls.trans h.cls
  store := by
    have e := k.store
    rw [h.store] at e
    exact e
  timebase := k.timebase.trans h.timebase
  cadence := k.cadence.trans h.cadence
  tx := k.tx.trans h.tx

theorem isUp (h : FrameReach l s t) (p : Line) : t.isUp p = s.isUp p := by
  unfold State.isUp
  rcases Line.eq_or_opposite l p with rfl | rfl
  · rw [h.line]
  · rw [h.port]

end FrameReach

variable (l : Line) (s : State)

theorem setRx_frame (r : Reception) : FrameReach l s (s.setRx l r) := by constructor <;> simp

theorem setCls_frame (c : Classifier) : FrameReach l s (s.setCls l c) := by constructor <;> simp

theorem leaveClassification_frame : FrameReach l s (leaveClassification l s) := by
  rw [leaveClassification_eq]
  constructor <;> simp

theorem headerComplete_frame : FrameReach l s (headerComplete l s) := by
  have judged : ∀ f, FrameReach l s (classifierHeader l f s) := fun f => by
    obtain ⟨c, ph, ct, e⟩ := classifierHeader_shape s l f
    rw [e]
    constructor <;> simp
  have port : ∀ f, (classifierHeader l f s).port = s.port := fun f => by
    obtain ⟨c, ph, ct, e⟩ := classifierHeader_shape s l f
    rw [e]
  exact (judged _).trans (setRx_frame l _ _)

theorem inspectPending_frame (f : HeaderFacts) (window : List Byte) : FrameReach l s (inspectPending l f window s) := by
  unfold inspectPending
  dsimp only
  generalize hj : (s.store.bank (s.cls.get l).bank).judge l f window = j
  have applied : FrameReach l s (applyJudgement l f j s) := by
    obtain ⟨k, po, sv, of, ct, ns, e⟩ := applyJudgement_shape s l f j (hj ▸ judge_decided _ _ _ _)
    rw [e]
    constructor <;> simp
  split
  · rename_i tr _
    obtain ⟨k, ca, ct, e⟩ := requestCapture_shape (applyJudgement l f j s) l tr (20 + f.payload) window
    refine applied.trans ?_
    rw [e]
    constructor <;> simp
  · exact applied

theorem inspectionComplete_frame : FrameReach l s (inspectionComplete l s) := by
  have inspected : ∀ window, FrameReach l s (classifierInspect l window s) := fun window => by
    unfold classifierInspect
    dsimp only
    refine FrameReach.trans ?_ (leaveClassification_frame l _)
    split
    · exact setCls_frame l s _
    · exact inspectPending_frame l s _ window
    · exact .refl l s
  exact (inspected _).trans (setRx_frame l _ _)

theorem frameByte_frame (b : Byte) (bad : Bool) : FrameReach l s (frameByte l b bad s) := by
  have pushed : FrameReach l s (s.withFrameByte l b bad) := by
    constructor <;> simp [State.withFrameByte]
  rw [frameByte_eq]
  split
  · exact pushed.trans (headerComplete_frame l _)
  · split
    · exact pushed.trans (inspectionComplete_frame l _)
    · exact pushed

theorem frameStart_frame : FrameReach l s (frameStart l s) := by
  rw [frameStart_eq]
  constructor <;> simp

theorem frameAbort_frame : FrameReach l s (frameAbort l s) := by
  rw [frameAbort_eq]
  constructor <;> simp

theorem newHead_frame (p : Line) (c : TrafficClass) : FrameReach l s (newHead p c s) := by
  obtain ⟨_, _, _, _, _, e⟩ := newHead_shape s p c
  rw [e]
  constructor <;> simp

theorem queueEntry_frame (d : Descriptor) (bytes : List Byte) : FrameReach l s (queueEntry l d bytes s) := by
  unfold queueEntry
  dsimp only
  have queued : ∀ q, FrameReach l s (count (.egress l.opposite d.cls .accepted) 1 (s.setQueue l.opposite d.cls q)) :=
    fun q => by constructor <;> simp [count, State.setQueue]
  split
  · exact (queued _).trans (newHead_frame l _ _ _)
  · exact queued _

theorem endUnmarked_frame (v : EndVerdict) (bytes : List Byte) : FrameReach l s (endUnmarked l v bytes s) := by
  have counted : ∀ id n, FrameReach l s (count id n s) := fun id n => by constructor <;> simp [count]
  unfold endUnmarked
  dsimp only
  split
  · split
    · exact (setCls_frame l s _).trans (queueEntry_frame l _ _ bytes)
    · exact .refl l s
    · rw [dropReservation_giveBack]
      constructor <;> simp [count]
  · split
    · obtain ⟨ag, ct, e⟩ := offerRequest_shape s l bytes
      rw [e]
      constructor <;> simp
    · exact counted _ _
    · exact counted _ _
  · exact counted _ _
  · exact .refl l s
  · exact .refl l s

theorem holdSlot_frame : FrameReach l s (holdSlot l s) := by
  obtain ⟨_, _, _, _, _, e⟩ := holdSlot_shape s l
  rw [e]
  constructor <;> simp

theorem classifierEnd_frame (v : EndVerdict) (bytes : List Byte) : FrameReach l s (classifierEnd l v bytes s) := by
  have left : FrameReach l s (leaveIfJudging l s) := by
    rw [leaveIfJudging_eq]
    constructor <;> simp
  cases marked : (s.cls.get l).resetMark with
  | true =>
    rw [classifierEnd_marked s l marked]
    constructor <;> simp
  | false =>
    have ended := left.trans (endUnmarked_frame l _ v bytes)
    by_cases good : v = .good
    · subst good
      rw [classifierEnd_good s l marked]
      exact (ended.trans (holdSlot_frame l _)).trans (setCls_frame l _ _)
    · rw [classifierEnd_failed s l marked good, dropSlot_eq]
      refine ended.trans (FrameReach.trans ?_ (setCls_frame l _ _))
      constructor <;> simp

theorem ended_frame : FrameReach l s (s.ended l (s.port.get l)) := by
  constructor <;> simp [State.ended]

theorem frameEnd_frame : FrameReach l s (frameEnd l s) := by
  by_cases inspect : (s.port.get l).rx.state = .inspect
  · rw [frameEnd_inspect s l inspect]
    exact ((inspectionComplete_frame l s).trans (ended_frame l _)).trans (classifierEnd_frame l _ _ _)
  · rw [frameEnd_eq s l inspect]
    exact (ended_frame l s).trans (classifierEnd_frame l _ _ _)

/-- What the delimiter does with a symbol stays within the frame of its line. -/
theorem delimit_frame (sym : Symbol) : FrameReach l s (delimit l sym s) := by
  obtain ⟨-, e | e⟩ | ⟨-, ⟨b, bad, e⟩ | e | e | e⟩ := delimit_cases s l sym <;> rw [e]
  · exact .refl l s
  · exact frameStart_frame l s
  · exact frameByte_frame l s b bad
  · exact frameEnd_frame l s
  · exact frameAbort_frame l s
  · exact (frameAbort_frame l s).trans (frameStart_frame l _)

end Sys2Proof.Machine
end

section
/-! SUPPORT. The bounded stores through reception, the capture slots through reception, and the invariants of the
bounded stores kept by every step. -/

namespace Sys2Proof.Machine

/-! ## The egress bounds through reception -/

theorem State.EgressBounds.of_frame {l : Line} {s t : State} (h : s.EgressBounds) (frame : FrameReach l s t)
    (service : t.service = s.service) (pacer : t.pacer = s.pacer) (agent : t.agent = s.agent) : t.EgressBounds :=
  h.of_eq service (fun p c => by simp only [State.lane, pacer]) (by rw [agent]) frame.tx frame.isUp

section

variable {s : State} (h : s.EgressBounds) (l : Line)

include h

theorem setRx_bounds (r : Reception) : (s.setRx l r).EgressBounds := h.of_frame (setRx_frame l s r) rfl rfl rfl

theorem reserve_bounds (c : TrafficClass) (total : Nat) : (reserve l c total s).EgressBounds := by
  by_cases above : (s.classPol l.opposite c).cellLimit.toNat < s.occupancy l.opposite c + cellsFor total
  · rw [reserve_queueLimit s l c total above]
    exact h
  · cases granted : grantTest s.pool s.active.devpol l.opposite (cellsFor total) with
    | true =>
      rw [reserve_granted s l c total (by omega) granted]
      exact h
    | false =>
      rw [reserve_refused s l c total (by omega) granted]
      have refused : (s.refused l c).EgressBounds := h
      split
      · exact notify_bounds refused _ _
      · exact refused

theorem applyJudgement_bounds (f : HeaderFacts) (j : Judgement) (decided : j.outcome.Decided) :
    (applyJudgement l f j s).EgressBounds := by
  rcases decided with ⟨c, pass⟩ | ⟨r, drop, counts⟩
  · rw [applyJudgement_pass s l f j pass]
    exact reserve_bounds (show (s.judged l j).EgressBounds from h) l c _
  · obtain ⟨k, counts⟩ := Option.isSome_iff_exists.1 counts
    rw [applyJudgement_drop s l f j drop counts]
    exact h

theorem inspectPending_bounds (f : HeaderFacts) (window : List Byte) : (inspectPending l f window s).EgressBounds := by
  have applied := applyJudgement_bounds h l f _ (judge_decided (s.store.bank (s.cls.get l).bank) l f window)
  unfold inspectPending
  dsimp only
  split
  · rename_i tr _
    obtain ⟨k, ca, ct, e⟩ := requestCapture_shape
      (applyJudgement l f ((s.store.bank (s.cls.get l).bank).judge l f window) s) l tr (20 + f.payload) window
    rw [e]
    exact applied
  · exact applied

theorem inspectionComplete_bounds : (inspectionComplete l s).EgressBounds := by
  have inspected : ∀ window, (classifierInspect l window s).EgressBounds := fun window => by
    unfold classifierInspect
    rw [leaveClassification_eq]
    split
    · exact h
    · exact inspectPending_bounds h l _ window
    · exact h
  exact setRx_bounds (inspected _) l _

theorem headerComplete_bounds : (headerComplete l s).EgressBounds := by
  have judged : ∀ f, (classifierHeader l f s).EgressBounds := fun f => by
    obtain ⟨c, ph, ct, e⟩ := classifierHeader_shape s l f
    rw [e]
    exact h
  exact setRx_bounds (judged _) l _

theorem frameByte_bounds (b : Byte) (bad : Bool) : (frameByte l b bad s).EgressBounds := by
  have pushed : (s.withFrameByte l b bad).EgressBounds := setRx_bounds h l _
  rw [frameByte_eq]
  split
  · exact headerComplete_bounds pushed l
  · split
    · exact inspectionComplete_bounds pushed l
    · exact pushed

theorem frameStart_bounds : (frameStart l s).EgressBounds :=
  h.of_frame (frameStart_frame l s) rfl rfl rfl

theorem frameAbort_bounds : (frameAbort l s).EgressBounds := by
  refine h.of_frame (frameAbort_frame l s) ?_ ?_ ?_ <;> rw [frameAbort_eq]

theorem queueEntry_bounds (d : Descriptor) (bytes : List Byte) : (queueEntry l d bytes s).EgressBounds := by
  unfold queueEntry
  dsimp only
  split
  · exact newHead_bounds (show (count _ 1 (s.setQueue _ _ _)).EgressBounds from h) _ _
  · exact h

/-- R126: the request queue takes a request only while it holds fewer than 4. -/
theorem offerRequest_bounds (frame : List Byte) : (offerRequest l frame s).EgressBounds := by
  unfold offerRequest
  dsimp only
  split
  · split
    · rename_i room
      obtain ⟨hs, hh, -, quiet⟩ := h
      have taken : (count (.arrival l .mgmtAccepted) 1
          (s.setAgent { s.agent with queue := s.agent.queue ++ [{ frame := frame, line := l }] })).EgressBounds := by
        refine ⟨hs, hh, ?_, quiet⟩
        show (s.agent.queue ++ _).length ≤ 4
        rw [List.length_append, List.length_singleton]
        omega
      split
      · exact nextRequest_bounds taken
      · exact taken
    · exact h
  · exact h

theorem endUnmarked_bounds (v : EndVerdict) (bytes : List Byte) : (endUnmarked l v bytes s).EgressBounds := by
  unfold endUnmarked
  dsimp only
  split
  · split
    · exact queueEntry_bounds (show (s.setCls l _).EgressBounds from h) l _ bytes
    · exact h
    · rw [dropReservation_giveBack]
      exact h
  · split
    · exact offerRequest_bounds h l bytes
    · exact h
    · exact h
  · exact h
  · exact h
  · exact h

theorem holdSlot_bounds : (holdSlot l s).EgressBounds := by
  cases holds : (s.cls.get l).slot with
  | none =>
    rw [holdSlot_none s l holds]
    exact h
  | some k =>
    by_cases fills : ∃ r bs, s.capture.slot k = .filling r bs
    · obtain ⟨r, bs, filling⟩ := fills
      rw [holdSlot_filling s l holds filling]
      refine notify_bounds ?_ _ _
      exact h
    · push Not at fills
      rw [holdSlot_other s l holds fills]
      exact h

theorem classifierEnd_bounds (v : EndVerdict) (bytes : List Byte) : (classifierEnd l v bytes s).EgressBounds := by
  have left : (leaveIfJudging l s).EgressBounds := by
    rw [leaveIfJudging_eq]
    exact h
  cases marked : (s.cls.get l).resetMark with
  | true =>
    rw [classifierEnd_marked s l marked]
    exact h
  | false =>
    have ended := endUnmarked_bounds left l v bytes
    by_cases good : v = .good
    · subst good
      rw [classifierEnd_good s l marked]
      exact holdSlot_bounds ended l
    · rw [classifierEnd_failed s l marked good, dropSlot_eq]
      exact ended

theorem frameEnd_bounds : (frameEnd l s).EgressBounds := by
  have ended : ∀ {s : State}, s.EgressBounds → (s.ended l (s.port.get l)).EgressBounds := fun {s} h =>
    h.of_frame (ended_frame l s) rfl rfl rfl
  by_cases inspect : (s.port.get l).rx.state = .inspect
  · rw [frameEnd_inspect s l inspect]
    exact classifierEnd_bounds (ended (inspectionComplete_bounds h l)) l _ _
  · rw [frameEnd_eq s l inspect]
    exact classifierEnd_bounds (ended h) l _ _

theorem delimit_bounds (sym : Symbol) : (delimit l sym s).EgressBounds := by
  obtain ⟨-, e | e⟩ | ⟨-, ⟨b, bad, e⟩ | e | e | e⟩ := delimit_cases s l sym <;> rw [e]
  · exact h
  · exact frameStart_bounds h l
  · exact frameByte_bounds h l b bad
  · exact frameEnd_bounds h l
  · exact frameAbort_bounds h l
  · exact frameStart_bounds (frameAbort_bounds h l) l

/-! ## Line up and line down -/

/-- A port that is UP only where it was, and its line silent where it was, keeps the bounds. -/
theorem setPort_bounds (p : LinePort) (up : p.line = .up ∨ (s.port.get l).line ≠ .up) :
    (s.setPort l p).EgressBounds := by
  obtain ⟨hs, hh, hq, quiet⟩ := h
  refine ⟨hs, hh, hq, fun q down => quiet q ?_⟩
  simp only [State.isUp, decide_eq_false_iff_not, setPort_port, PerLine.get_set] at down ⊢
  split at down
  · rename_i e
    rw [e]
    exact up.resolve_left down
  · exact down

theorem lineUp_bounds : (lineUp l s).EgressBounds := by
  have opened := setPort_bounds h l
    { s.port.get l with line := .up, alignCount := 16, errorCount := 0, cleanCount := 0 } (.inl rfl)
  have evaluated := List.foldlRecOn classesUp (fun s c => evaluateOffer l c s) opened fun _ k c _ =>
    evaluateOffer_bounds k l c
  exact offer_bounds (show (startTimer l _).EgressBounds from evaluated) l

theorem abortReception_bounds : (abortReception l s).EgressBounds := by
  unfold abortReception
  split
  · exact h
  · exact frameAbort_bounds h l

omit h in
/-- Line down leaves the line silent, so its bounds need not the line's state before (R15, R18, R115). -/
theorem egressDown_bounds {t : State} (h : s.EgressBounds) (service : t.service = s.service) (pacer : t.pacer = s.pacer)
    (agent : t.agent = s.agent) (tx : t.tx = s.tx) (up : ∀ q, q ≠ l → t.isUp q = s.isUp q) :
    (egressDown l t).EgressBounds := by
  obtain ⟨hs, hh, hq, quiet⟩ := h
  have reach := egressDown_reach t l
  have lane := egressDown_lane t l
  obtain ⟨qs, pa, po, ct, e⟩ := egressDown_shape t l
  refine ⟨fun p => ?_, fun p c => ?_, ?_, fun p down => ?_⟩
  · rw [e]
    show ((t.service.set l []).get p).length ≤ 4
    rw [PerLine.get_set]
    split
    · exact Nat.zero_le _
    · rw [service]
      exact hs p
  · rcases Line.eq_or_opposite l p with rfl | rfl
    · rw [lane]
      exact Nat.zero_le _
    · have same : (egressDown l t).lane l.opposite c = s.lane l.opposite c := by
        simp only [State.lane, reach.pacer, pacer]
      rw [same]
      exact hh _ c
  · rw [reach.agent, agent]
    exact hq
  · by_cases own : p = l
    · subst own
      rw [e]
      refine ⟨?_, PerLine.get_set_same _ _ _⟩
      show ((t.tx.set p (t.tx.get p).cut).get p).launch.isNone = true
      rw [PerLine.get_set_same, cut_launch]
      rfl
    · rw [reach.isUp, up p own] at down
      obtain ⟨free, silent⟩ := quiet p down
      rw [e]
      refine ⟨?_, ?_⟩
      · show ((t.tx.set l _).get p).launch.isNone = true
        rw [PerLine.get_set_ne _ _ _ _ own, tx]
        exact free
      · show (t.service.set l []).get p = []
        rw [PerLine.get_set_ne _ _ _ _ own, service]
        exact silent

theorem lineDown_bounds : (lineDown l s).EgressBounds := by
  unfold lineDown
  dsimp only
  split
  · exact fullReset_bounds _
  · refine egressDown_bounds l (abortReception_bounds h l) rfl rfl rfl rfl fun q other => ?_
    simp only [State.isUp, setPort_port, PerLine.get_set_ne _ _ _ _ other]

theorem receive_bounds (sym : Symbol) : (receive l sym s).EgressBounds := by
  obtain e | ⟨p, down, -, -, e⟩ | e | ⟨-, e⟩ | ⟨up, e⟩ := receive_cases s l sym <;> rw [e]
  · exact h
  · exact setPort_bounds h l p (.inr down)
  · exact lineUp_bounds h l
  · exact lineDown_bounds h l
  · exact delimit_bounds (setPort_bounds h l _ (.inl (by rw [afterSymbol_line, up]))) l sym

theorem trafficReset_bounds : (trafficReset s).EgressBounds := by
  have discarded : ∀ {s : State} (l : Line), s.EgressBounds → (discardFrame l s).EgressBounds := fun l h =>
    setRx_bounds h l _
  have emptied : ((discardFrame .s (discardFrame .n s)).setCapture CaptureStore.empty).EgressBounds :=
    discarded .s (discarded .n h)
  exact clearEgress_bounds (clearEgress_bounds emptied .n) .s

/-- Every act keeps the bounds of the egress side. -/
theorem act_egressBounds {t : State} (a : Act s t) : t.EgressBounds := by
  cases a with
  | symbol l sym => exact receive_bounds h l sym
  | decision p up free => exact decideOffer_bounds h p up
  | completion p x busy => exact completeLaunch_bounds h p x
  | residence p c => exact checkHead_bounds h p c
  | release p c due => exact evaluateOffer_bounds h p c
  | ageing p c due =>
    refine setLane_bounds h p c _ ?_
    rw [List.length_drop]
    exact Nat.le_trans (Nat.sub_le _ _) (h.history p c)
  | cadence p due => exact cadenceExpire_bounds h p _
  | take r executing inHand => exact takeRequest_bounds h r
  | goOn hand executing inHand => exact goOn_bounds h hand
  | command i f hand means executing inHand =>
    obtain reach | e | ⟨k, r, bs, held, e⟩ | e := command_cases hand s means
    · exact h.of_command reach
    · rw [e]
      exact (flip_bounds h).of_command (waitForCopy_reach hand _)
    · rw [e]
      exact State.EgressBounds.of_command (s := s.setCapture (s.capture.empty1 k)) h (finishCommand_reach hand _ _ _)
    · rw [e]
      exact (trafficReset_bounds h).of_command (finishCommand_reach hand _ _ _)
  | copy begun refilling => exact h.of_command (copyDone_reach s)
  | lease i editor due => exact expireLease_bounds h i

end

end Sys2Proof.Machine
end

section
/-! SUPPORT. The reception bounds and the slot linkage through each act, and the proof that every step keeps the bounded
stores and the linkage. -/

namespace Sys2Proof.Machine

/-! ## The acts that leave every frame where it is -/

/-- From `s` to `t` no frame in reception has moved: the ports, the classifiers and the capture store are as they were,
or at power-on. -/
def FramesRest (s t : State) : Prop :=
  (t.port = s.port ∧ t.cls = s.cls ∧ t.capture = s.capture) ∨
    (t.port = (State.powerOn 0).port ∧ t.cls = (State.powerOn 0).cls ∧ t.capture = CaptureStore.empty)

namespace FramesRest

variable {s t u : State}

theorem refl (s : State) : FramesRest s s := .inl ⟨rfl, rfl, rfl⟩

theorem of_reset (s t : State) : FramesRest s (fullReset t) := .inr ⟨rfl, rfl, rfl⟩

theorem trans (h : FramesRest s t) (k : FramesRest t u) : FramesRest s u := by
  obtain ⟨port, cls, capture⟩ | on := k
  · obtain ⟨port', cls', capture'⟩ | ⟨port', cls', capture'⟩ := h
    · exact .inl ⟨port.trans port', cls.trans cls', capture.trans capture'⟩
    · exact .inr ⟨port.trans port', cls.trans cls', capture.trans capture'⟩
  · exact .inr on

theorem of_egress {p : Line} (h : EgressReach p s t) : FramesRest s t := .inl ⟨h.port, h.cls, h.capture⟩

theorem of_command (h : CommandReach s t) : FramesRest s t := .inl ⟨h.port, h.cls, h.capture⟩

end FramesRest

theorem setContext_rest (s : State) (i : Fin 4) (c : Option Context) : FramesRest s (s.setContext i c) :=
  .inl ⟨rfl, rfl, rfl⟩

theorem setAgent_rest (s : State) (a : Agent) : FramesRest s (s.setAgent a) := .inl ⟨rfl, rfl, rfl⟩

theorem touch_rest (s : State) (i : Fin 4) : FramesRest s (touch i s) := .inl ⟨rfl, rfl, rfl⟩

theorem sendReply_rest (s : State) (l : Line) (frame : List Byte) (awaited : Bool) :
    FramesRest s (sendReply l frame awaited s) := .of_egress (enqueue_reach s l l _)

theorem nextRequest_rest (s : State) : FramesRest s (nextRequest s) := setAgent_rest s _

theorem answer_rest (status : Byte) (h : InHand) (s : State) : FramesRest s (answer status h s) := by
  unfold answer
  dsimp only
  split
  · exact ((setContext_rest s _ _).trans (sendReply_rest _ _ _ _)).trans (nextRequest_rest _)
  · split
    · exact ((setContext_rest s _ _).trans (sendReply_rest _ _ _ _)).trans (setAgent_rest _ _)
    · exact .of_reset s _

theorem beginRequest_rest (i : Fin 4) (r : Request) (s : State) : FramesRest s (beginRequest i r s) := by
  have renewed := FramesRest.of_command (onRole_reach s i (Role.renew s.timebase))
  unfold beginRequest
  dsimp only
  split
  · exact renewed.trans (setAgent_rest _ _)
  · exact renewed.trans (answer_rest _ _ _)

theorem judgeRequest_rest (i : Fin 4) (c : Context) (r : Request) (s : State) :
    FramesRest s (judgeRequest i c r s) := by
  unfold judgeRequest
  split
  · exact (setContext_rest s _ _).trans (beginRequest_rest i r _)
  · have renewed := FramesRest.of_command (onRole_reach s i (Role.renew s.timebase))
    unfold replay
    dsimp only
    refine FramesRest.trans ?_ (nextRequest_rest _)
    split
    · exact renewed.trans (sendReply_rest _ _ _ _)
    · exact renewed
  · exact (sendReply_rest s _ _ _).trans (nextRequest_rest _)

theorem takeRequest_rest (r : Request) (s : State) : FramesRest s (takeRequest r s) := by
  unfold takeRequest
  dsimp only
  split
  · split
    · exact (touch_rest s _).trans (judgeRequest_rest _ _ r _)
    · exact .refl s
  · split
    · exact ((setContext_rest s _ _).trans (touch_rest _ _)).trans (beginRequest_rest _ r _)
    · exact .refl s

theorem goOn_rest (h : InHand) (s : State) : FramesRest s (goOn h s) := by
  unfold goOn
  split
  · exact answer_rest _ h s
  · split
    · exact .of_command (finishCommand_reach h s _ _)
    · exact .refl s

theorem expireLease_rest (i : Fin 4) (s : State) : FramesRest s (expireLease i s) := by
  have ended := onRole_reach s i fun _ => .reader
  unfold expireLease
  dsimp only
  refine FramesRest.trans ?_ (.of_egress (p := .n) (notify_reach _ .n _ _))
  split
  · exact .of_command (ended.trans (startCopy_reach _))
  · exact .of_command ended

theorem flip_rest (s : State) : FramesRest s (flip s) := by
  have stored : FramesRest s (flipStore s) := by
    unfold flipStore
    dsimp only
    split <;> exact .inl ⟨rfl, rfl, rfl⟩
  have acted := flipActs_keeps (FramesRest s) s (fun rest a _ k => k.trans (.of_egress (flipAct_reach _ s rest a)))
    (flipOrder s.choices flipAll) _ stored
  exact acted

theorem completeLaunch_rest (p : Line) (x : Launch) (s : State) : FramesRest s (completeLaunch p x s) := by
  cases awaited : x.source.awaited with
  | false => exact .of_egress (completeLaunch_reach s p x awaited)
  | true =>
    unfold completeLaunch
    simp only [awaited, if_true]
    exact .of_reset s _

/-! ## The TRAFFIC reset -/

theorem discardFrame_port (l m : Line) (s : State) :
    ((discardFrame l s).port.get m).rx =
      if m = l then (s.port.get m).rx.discarded else (s.port.get m).rx := by
  show ((s.port.set l _).get m).rx = _
  rw [PerLine.get_set]
  split
  · rename_i e
    rw [e]
  · rfl

theorem discardFrame_cls (l m : Line) (s : State) :
    (discardFrame l s).cls.get m = if m = l then (s.cls.get m).marked else s.cls.get m := by
  show (s.cls.set l _).get m = _
  rw [PerLine.get_set]
  split
  · rename_i e
    rw [e]
  · rfl

/-- R13, R161: a TRAFFIC reset discards the frames in reception, takes the slot numbers and empties the slots. -/
theorem trafficReset_frames (s : State) :
    (∀ m, ((trafficReset s).port.get m).rx = (s.port.get m).rx.discarded) ∧
      (∀ m, (trafficReset s).cls.get m = (s.cls.get m).marked) ∧ (trafficReset s).capture = CaptureStore.empty := by
  have north := clearEgress_reach ((discardFrame .s (discardFrame .n s)).setCapture CaptureStore.empty) .n
  have south := clearEgress_reach
    (clearEgress .n ((discardFrame .s (discardFrame .n s)).setCapture CaptureStore.empty)) .s
  refine ⟨fun m => ?_, fun m => ?_, south.capture.trans north.capture⟩
  · rw [trafficReset, south.port, north.port, setCapture_port, discardFrame_port, discardFrame_port]
    cases m <;> simp
  · rw [trafficReset, south.cls, north.cls, setCapture_cls, discardFrame_cls, discardFrame_cls]
    cases m <;> simp

/-- What an act does to the frames in reception: it is a received symbol, it leaves them at rest, it frees a HELD slot,
or it is the TRAFFIC reset. -/
theorem act_frames {s t : State} (a : Act s t) :
    (∃ l sym, t = receive l sym s) ∨ FramesRest s t ∨
      (∃ k r bs, s.capture.slot k = .held r bs ∧ t.port = s.port ∧ t.cls = s.cls ∧
        t.capture = s.capture.empty1 k) ∨
      ((∀ m, (t.port.get m).rx = (s.port.get m).rx.discarded) ∧ (∀ m, t.cls.get m = (s.cls.get m).marked) ∧
        t.capture = CaptureStore.empty) := by
  cases a with
  | symbol l sym => exact .inl ⟨l, sym, rfl⟩
  | decision p up free => exact .inr (.inl (.of_egress (decideOffer_reach s p)))
  | completion p x busy => exact .inr (.inl (completeLaunch_rest p x s))
  | residence p c => exact .inr (.inl (.of_egress (checkHead_reach s p c)))
  | release p c due => exact .inr (.inl (.of_egress (evaluateOffer_reach s p c)))
  | ageing p c due => exact .inr (.inl (.of_egress (setLane_reach s p c _)))
  | cadence p due => exact .inr (.inl (.of_egress (cadenceExpire_reach s p _)))
  | take r executing inHand => exact .inr (.inl (takeRequest_rest r s))
  | goOn h executing inHand => exact .inr (.inl (goOn_rest h s))
  | command i f h means executing inHand =>
    obtain reach | e | ⟨k, r, bs, held, e⟩ | e := command_cases h s means
    · exact .inr (.inl (.of_command reach))
    · rw [e]
      exact .inr (.inl ((flip_rest s).trans (.of_command (waitForCopy_reach h _))))
    · rw [e]
      exact .inr (.inr (.inl ⟨k, r, bs, held, rfl, rfl, rfl⟩))
    · obtain ⟨rx, cls, capture⟩ := trafficReset_frames s
      have finished := finishCommand_reach h (trafficReset s) .ok []
      rw [e, finished.port, finished.cls, finished.capture]
      exact .inr (.inr (.inr ⟨rx, cls, capture⟩))
  | copy begun refilling => exact .inr (.inl (.of_command (copyDone_reach s)))
  | lease i editor due => exact .inr (.inl (expireLease_rest i s))

/-! ## The reception bounds -/

/-- R12: the byte count and the bytes kept of a reception are bounded. -/
def Reception.Bounded (r : Reception) : Prop := r.count ≤ 2047 ∧ r.bytes.length ≤ 1028

/-- The bounded stores that reception writes (R12, R164). -/
def State.FrameBounds (s : State) : Prop := (∀ p, (s.port.get p).rx.Bounded) ∧ s.capture.Short

theorem boundsInv_iff (s : State) : s.BoundsInv ∧ s.QuietInv ↔ s.EgressBounds ∧ s.FrameBounds := by
  unfold State.BoundsInv State.EgressBounds State.FrameBounds Reception.Bounded CaptureStore.Short
  tauto

theorem none_bounded : Reception.none.Bounded := ⟨Nat.zero_le _, Nat.zero_le _⟩

theorem empty_short : CaptureStore.empty.Short := by
  have empty : ∀ k, CaptureStore.empty.slot k = .empty := by decide
  intro k r bs h
  rw [empty] at h
  exact absurd h (by simp)

theorem push_bounded {r : Reception} (h : r.Bounded) (b : Byte) (bad : Bool) : (r.push b bad).Bounded := by
  obtain ⟨count, bytes⟩ := h
  refine ⟨Nat.min_le_right _ _, ?_⟩
  unfold Reception.push
  dsimp only
  split
  · rw [List.length_append, List.length_singleton]
    omega
  · exact bytes

section

variable {s : State} (h : s.FrameBounds) (l : Line)

include h

/-- The bounds after a change of one line's reception and of the capture store. -/
theorem State.FrameBounds.of_rx {t : State} (own : (t.port.get l).rx.Bounded)
    (other : t.port.get l.opposite = s.port.get l.opposite) (capture : t.capture.Short) : t.FrameBounds := by
  refine ⟨fun p => ?_, capture⟩
  rcases Line.eq_or_opposite l p with rfl | rfl
  · exact own
  · rw [other]
    exact h.1 _

theorem headerComplete_frameBounds : (headerComplete l s).FrameBounds := by
  have capture : (headerComplete l s).capture = s.capture := by
    obtain ⟨c, ph, ct, e⟩ := classifierHeader_shape s l (headerFacts (s.port.get l).rx.bytes)
    unfold headerComplete
    dsimp only
    rw [e]
    rfl
  refine h.of_rx l ?_ (headerComplete_frame l s).port (capture ▸ h.2)
  simp only [headerComplete, setRx_port, PerLine.get_set_same]
  exact h.1 l

/-- The capture store after inspection complete: the one before, or a slot claimed with at most 64 bytes. -/
theorem inspectionComplete_frameBounds : (inspectionComplete l s).FrameBounds := by
  have window : ((s.port.get l).rx.bytes.take 64).length ≤ 128 := by
    rw [List.length_take]
    omega
  have pending : ∀ f, (inspectPending l f ((s.port.get l).rx.bytes.take 64) s).capture.Short := fun f => by
    unfold inspectPending
    dsimp only
    generalize hj : (s.store.bank (s.cls.get l).bank).judge l f _ = j
    obtain ⟨k, po, sv, of, ct, ns, e⟩ := applyJudgement_shape s l f j (hj ▸ judge_decided _ _ _ _)
    rw [e]
    split
    · unfold requestCapture
      dsimp only
      split
      · exact h.2.claim _ _ _ window
      · exact h.2
    · exact h.2
  have capture : (inspectionComplete l s).capture.Short := by
    unfold inspectionComplete classifierInspect
    dsimp only
    rw [leaveClassification_eq, setRx_capture, setPhase_capture]
    split
    · exact h.2
    · exact pending _
    · exact h.2
  refine h.of_rx l ?_ (inspectionComplete_frame l s).port capture
  simp only [inspectionComplete, setRx_port, PerLine.get_set_same]
  exact h.1 l

theorem frameByte_frameBounds (b : Byte) (bad : Bool) : (frameByte l b bad s).FrameBounds := by
  have capture : (s.capture.passTo b (s.cls.get l).slot).Short := by
    unfold CaptureStore.passTo
    split
    · exact h.2.pass _ b
    · exact h.2
  have pushed : (s.withFrameByte l b bad).FrameBounds := by
    refine h.of_rx l ?_ (by simp [State.withFrameByte]) capture
    rw [withFrameByte_rx]
    exact push_bounded (h.1 l) b bad
  rw [frameByte_eq]
  split
  · exact headerComplete_frameBounds pushed l
  · split
    · exact inspectionComplete_frameBounds pushed l
    · exact pushed

theorem frameStart_frameBounds : (frameStart l s).FrameBounds := by
  refine h.of_rx l ?_ (frameStart_frame l s).port h.2
  rw [frameStart_eq]
  dsimp only
  rw [PerLine.get_set_same]
  exact none_bounded

theorem frameAbort_frameBounds : (frameAbort l s).FrameBounds := by
  refine h.of_rx l ?_ (frameAbort_frame l s).port ?_
  · rw [frameAbort_eq]
    dsimp only
    rw [PerLine.get_set_same]
    exact none_bounded
  · rw [frameAbort_eq]
    exact giveUp_short h.2 _

end

/-- A frame end but for the capture slot moves neither the ports nor the slots, and keeps the classifier's slot
number. -/
theorem endUnmarked_slots (l : Line) (v : EndVerdict) (bytes : List Byte) (s : State) :
    (endUnmarked l v bytes s).port = s.port ∧ (endUnmarked l v bytes s).capture = s.capture ∧
      ∃ c, (endUnmarked l v bytes s).cls = s.cls.set l c ∧ c.slot = (s.cls.get l).slot := by
  have still : ∃ c, s.cls = s.cls.set l c ∧ c.slot = (s.cls.get l).slot := ⟨_, (PerLine.set_get _ _).symm, rfl⟩
  unfold endUnmarked
  dsimp only
  split
  · split
    · unfold queueEntry
      dsimp only
      split
      · obtain ⟨_, _, _, _, _, e⟩ := newHead_shape (count (.egress l.opposite _ .accepted) 1
          ((s.setCls l { s.cls.get l with reservation := none }).setQueue l.opposite _ _)) l.opposite _
        rw [e]
        exact ⟨rfl, rfl, _, rfl, rfl⟩
      · exact ⟨rfl, rfl, _, rfl, rfl⟩
    · exact ⟨rfl, rfl, still⟩
    · rw [dropReservation_giveBack]
      exact ⟨rfl, rfl, still⟩
  · split
    · obtain ⟨ag, ct, e⟩ := offerRequest_shape s l bytes
      rw [e]
      exact ⟨rfl, rfl, still⟩
    · exact ⟨rfl, rfl, still⟩
    · exact ⟨rfl, rfl, still⟩
  · exact ⟨rfl, rfl, still⟩
  · exact ⟨rfl, rfl, still⟩
  · exact ⟨rfl, rfl, still⟩

/-- The classifier and the slots after a frame end: the slot the frame held is given up, or has become HELD. -/
theorem classifierEnd_slots (l : Line) (v : EndVerdict) (bytes : List Byte) (s : State) :
    (classifierEnd l v bytes s).port = s.port ∧ (classifierEnd l v bytes s).cls = s.cls.set l Classifier.empty ∧
      ((classifierEnd l v bytes s).capture = s.capture.giveUp (s.cls.get l).slot ∨
        (∃ k r bs, (s.cls.get l).slot = some k ∧ s.capture.slot k = .filling r bs ∧
          (classifierEnd l v bytes s).capture = s.capture.setSlot k (.held r bs)) ∨
        (∃ k, (s.cls.get l).slot = some k ∧ (∀ r bs, s.capture.slot k ≠ .filling r bs) ∧
          (classifierEnd l v bytes s).capture = s.capture)) := by
  cases marked : (s.cls.get l).resetMark with
  | true =>
    rw [classifierEnd_marked s l marked]
    exact ⟨rfl, rfl, .inl rfl⟩
  | false =>
    obtain ⟨port, capture, c, cls, slot⟩ := endUnmarked_slots l v bytes (leaveIfJudging l s)
    rw [leaveIfJudging_eq] at port capture cls slot
    dsimp only at port capture cls slot
    by_cases good : v = .good
    · subst good
      rw [classifierEnd_good s l marked, leaveIfJudging_eq]
      generalize endUnmarked l .good bytes _ = u at port capture cls
      have own : (u.cls.get l).slot = (s.cls.get l).slot := by rw [cls, PerLine.get_set_same, slot]
      cases holds : (s.cls.get l).slot with
      | none =>
        rw [holdSlot_none u l (own.trans holds)]
        exact ⟨port, by rw [setCls_cls, cls, PerLine.set_set], .inl capture⟩
      | some k =>
        by_cases fills : ∃ r bs, s.capture.slot k = .filling r bs
        · obtain ⟨r, bs, filling⟩ := fills
          rw [holdSlot_filling u l (own.trans holds) (capture ▸ filling)]
          obtain ⟨sv, of, ct, e⟩ := notify_shape
            { u with capture := u.capture.setSlot k (.held r bs), counters := u.counters.add (.capture .taken) 1 }
            (.captureTaken k) u.timebase
          rw [e]
          refine ⟨port, ?_, .inr (.inl ⟨k, r, bs, rfl, filling, ?_⟩)⟩
          · rw [setCls_cls, cls, PerLine.set_set]
          · rw [setCls_capture, capture]
        · push Not at fills
          rw [holdSlot_other u l (own.trans holds) (capture ▸ fills)]
          exact ⟨port, by rw [setCls_cls, cls, PerLine.set_set], .inr (.inr ⟨k, rfl, fills, capture⟩)⟩
    · rw [classifierEnd_failed s l marked good, dropSlot_eq, leaveIfJudging_eq]
      generalize endUnmarked l v bytes _ = u at port capture cls
      have own : (u.cls.get l).slot = (s.cls.get l).slot := by rw [cls, PerLine.get_set_same, slot]
      refine ⟨port, ?_, .inl ?_⟩
      · rw [setCls_cls, cls, PerLine.set_set]
      · rw [setCls_capture, own, capture]

section

variable {s : State} (h : s.FrameBounds) (l : Line)

include h

theorem classifierEnd_frameBounds (v : EndVerdict) (bytes : List Byte) :
    (classifierEnd l v bytes s).FrameBounds := by
  obtain ⟨port, -, capture⟩ := classifierEnd_slots l v bytes s
  refine ⟨fun p => by rw [port]; exact h.1 p, ?_⟩
  obtain e | ⟨k, r, bs, -, filling, e⟩ | ⟨-, -, -, e⟩ := capture <;> rw [e]
  · exact giveUp_short h.2 _
  · refine h.2.setSlot k _ ?_
    rintro r' bs' (e | e)
    · exact absurd e (by simp)
    · obtain ⟨-, rfl⟩ := Slot.held.inj e
      exact h.2 k r bs (.inl filling)
  · exact h.2

theorem ended_frameBounds : (s.ended l (s.port.get l)).FrameBounds := by
  refine h.of_rx l ?_ (ended_frame l s).port h.2
  obtain ⟨count, bytes⟩ := h.1 l
  simp only [State.ended, PerLine.get_set_same, Reception.Bounded, List.length_take]
  exact ⟨count, by omega⟩

theorem frameEnd_frameBounds : (frameEnd l s).FrameBounds := by
  by_cases inspect : (s.port.get l).rx.state = .inspect
  · rw [frameEnd_inspect s l inspect]
    exact classifierEnd_frameBounds (ended_frameBounds (inspectionComplete_frameBounds h l) l) l _ _
  · rw [frameEnd_eq s l inspect]
    exact classifierEnd_frameBounds (ended_frameBounds h l) l _ _

theorem delimit_frameBounds (sym : Symbol) : (delimit l sym s).FrameBounds := by
  obtain ⟨-, e | e⟩ | ⟨-, ⟨b, bad, e⟩ | e | e | e⟩ := delimit_cases s l sym <;> rw [e]
  · exact h
  · exact frameStart_frameBounds h l
  · exact frameByte_frameBounds h l b bad
  · exact frameEnd_frameBounds h l
  · exact frameAbort_frameBounds h l
  · exact frameStart_frameBounds (frameAbort_frameBounds h l) l

theorem setPort_frameBounds (p : LinePort) (rx : p.rx = (s.port.get l).rx) : (s.setPort l p).FrameBounds := by
  refine h.of_rx l ?_ (by simp) h.2
  rw [setPort_port, PerLine.get_set_same, rx]
  exact h.1 l

theorem FramesRest.frameBounds {t : State} (k : FramesRest s t) : t.FrameBounds := by
  obtain ⟨port, -, capture⟩ | ⟨port, -, capture⟩ := k
  · exact ⟨fun p => by rw [port]; exact h.1 p, capture ▸ h.2⟩
  · refine ⟨fun p => ?_, capture ▸ empty_short⟩
    rw [port]
    cases p <;> exact none_bounded

theorem lineUp_frameBounds : (lineUp l s).FrameBounds :=
  (FramesRest.of_egress (egressUp_reach _ l)).frameBounds
    (setPort_frameBounds h l { s.port.get l with line := .up, alignCount := 16, errorCount := 0, cleanCount := 0 } rfl)

theorem lineDown_frameBounds : (lineDown l s).FrameBounds := by
  have aborted : (abortReception l s).FrameBounds := by
    unfold abortReception
    split
    · exact h
    · exact frameAbort_frameBounds h l
  have down := setPort_frameBounds aborted l
    { LinePort.powerOn with rx := ((abortReception l s).port.get l).rx } rfl
  unfold lineDown
  dsimp only
  split
  · exact (FramesRest.of_reset s _).frameBounds h
  · exact (FramesRest.of_egress (egressDown_reach _ l)).frameBounds down

theorem receive_frameBounds (sym : Symbol) : (receive l sym s).FrameBounds := by
  obtain e | ⟨p, -, -, rx, e⟩ | e | ⟨-, e⟩ | ⟨-, e⟩ := receive_cases s l sym <;> rw [e]
  · exact h
  · exact setPort_frameBounds h l p rx
  · exact lineUp_frameBounds h l
  · exact lineDown_frameBounds h l
  · exact delimit_frameBounds (setPort_frameBounds h l _ (afterSymbol_rx _ sym)) l sym

/-- Every act keeps the bounds of reception. -/
theorem act_frameBounds {t : State} (a : Act s t) : t.FrameBounds := by
  obtain ⟨l, sym, rfl⟩ | rest | ⟨k, r, bs, -, port, -, capture⟩ | ⟨rx, -, capture⟩ := act_frames a
  · exact receive_frameBounds h l sym
  · exact rest.frameBounds h
  · exact ⟨fun p => by rw [port]; exact h.1 p, capture ▸ h.2.empty1 k⟩
  · exact ⟨fun p => by rw [rx]; exact h.1 p, capture ▸ empty_short⟩

end

/-! ## The linkage through reception -/

section

variable {s : State} (h : s.CaptureInv) (l : Line)

include h

theorem frameStart_captureInv (free : (s.cls.get l).slot = none) : (frameStart l s).CaptureInv :=
  captureInv_keep h (l := l) rfl rfl free.symm fun held => absurd rfl held

theorem frameAbort_captureInv : (frameAbort l s).CaptureInv := by
  rw [frameAbort_eq]
  refine captureInv_giveUp h (l := l) (c := Classifier.empty) rfl rfl ?_
  unfold CaptureStore.giveUp
  cases (s.cls.get l).slot <;> rfl

/-- R9: header complete of a frame that holds no slot. -/
theorem headerComplete_captureInv (free : (s.cls.get l).slot = none) : (headerComplete l s).CaptureInv := by
  have judged : ∀ f, (classifierHeader l f s).CaptureInv := fun f => by
    obtain ⟨r, k, outcome, counts⟩ | kept := judgeHeader_cases (s.store.bank (s.cls.get l).bank).identity f
    · rw [classifierHeader_drop s l f outcome counts]
      exact captureInv_keep h (l := l) rfl rfl rfl fun held => absurd free held
    · rw [classifierHeader_kept s l f kept]
      exact captureInv_keep h (l := l) rfl rfl rfl fun held => absurd free held
  exact judged _

/-- R69, R162: inspection complete of a frame that holds no slot. -/
theorem inspectPending_captureInv (free : (s.cls.get l).slot = none) (f : HeaderFacts) (window : List Byte) :
    (inspectPending l f window s).CaptureInv := by
  unfold inspectPending
  dsimp only
  generalize hj : (s.store.bank (s.cls.get l).bank).judge l f window = j
  have decided : j.outcome.Decided := hj ▸ judge_decided _ _ _ _
  obtain ⟨k, cls, slot, state⟩ := applyJudgement_cls s l f j decided
  obtain ⟨_, po, sv, of, ct, ns, shape⟩ := applyJudgement_shape s l f j decided
  have capture : (applyJudgement l f j s).capture = s.capture := by rw [shape]
  have judged : (applyJudgement l f j s).CaptureInv :=
    captureInv_keep h cls capture slot fun held => absurd (slot.trans free) held
  split
  · rename_i tr _
    have own : (applyJudgement l f j s).cls.get l = k := by rw [cls, PerLine.get_set_same]
    cases given : (applyJudgement l f j s).capture.choose (applyJudgement l f j s).active.devpol.captureMode with
    | none =>
      rw [requestCapture_missed _ l tr _ window given]
      exact judged
    | some n =>
      rw [requestCapture_given _ l tr _ window given]
      refine captureInv_claim judged (l := l) (k := n) ?_ ?_ rfl rfl ?_ rfl rfl
      · rw [own, slot, free]
      · exact CaptureStore.choose_not_filling _ n _ given
      · rw [own]
        exact state
  · exact judged

theorem inspectionComplete_captureInv (free : (s.cls.get l).slot = none) : (inspectionComplete l s).CaptureInv := by
  have inspected : ∀ window, (classifierInspect l window s).CaptureInv := fun window => by
    unfold classifierInspect
    rw [leaveClassification_eq]
    split
    · exact captureInv_keep h (l := l) rfl rfl rfl fun held => absurd free held
    · exact inspectPending_captureInv h l free _ window
    · exact h
  exact inspected _

theorem withFrameByte_captureInv (b : Byte) (bad : Bool) : (s.withFrameByte l b bad).CaptureInv := by
  cases holds : (s.cls.get l).slot with
  | none =>
    refine h.of_eq rfl ?_
    simp only [State.withFrameByte, holds, CaptureStore.passTo]
  | some k =>
    refine captureInv_pass h (k := k) (b := b) rfl ?_
    simp only [State.withFrameByte, holds, CaptureStore.passTo]

/-- R8 to R10: a byte of a frame whose classifier follows it. -/
theorem frameByte_captureInv (follows : s.Follows l) (b : Byte) (bad : Bool) : (frameByte l b bad s).CaptureInv := by
  obtain ⟨-, -, inClassification, -⟩ := follows
  have free : (s.port.get l).rx.state = .header ∨ (s.port.get l).rx.state = .inspect → (s.cls.get l).slot = none :=
    fun st => slot_none_of_state h l (by simp [inClassification st])
  have pushed := withFrameByte_captureInv h l b bad
  rw [frameByte_eq]
  split
  · rename_i at16
    exact headerComplete_captureInv pushed l (free (.inl at16.1))
  · split
    · rename_i at64
      exact inspectionComplete_captureInv pushed l (free (.inr at64.1))
    · exact pushed

theorem classifierEnd_captureInv (v : EndVerdict) (bytes : List Byte) : (classifierEnd l v bytes s).CaptureInv := by
  obtain ⟨-, cls, e | ⟨k, r, bs, holds, -, e⟩ | ⟨k, holds, unfilled, -⟩⟩ := classifierEnd_slots l v bytes s
  · refine captureInv_giveUp h rfl cls ?_
    rw [e]
    cases (s.cls.get l).slot <;> rfl
  · exact captureInv_hold h holds rfl cls e
  · obtain ⟨fills, -⟩ := h
    obtain ⟨r, bs, filling, -⟩ := fills l k holds
    exact absurd filling (unfilled r bs)

theorem frameEnd_captureInv (follows : s.Follows l) : (frameEnd l s).CaptureInv := by
  by_cases inspect : (s.port.get l).rx.state = .inspect
  · obtain ⟨-, -, inClassification, -⟩ := follows
    have free : (s.cls.get l).slot = none := slot_none_of_state h l (by simp [inClassification (.inr inspect)])
    rw [frameEnd_inspect s l inspect]
    exact classifierEnd_captureInv
      (s := (inspectionComplete l s).ended l ((inspectionComplete l s).port.get l))
      (inspectionComplete_captureInv h l free) l _ _
  · rw [frameEnd_eq s l inspect]
    exact classifierEnd_captureInv (s := s.ended l (s.port.get l)) h l _ _

theorem delimit_captureInv (follows : s.Follows l) (sym : Symbol) : (delimit l sym s).CaptureInv := by
  obtain ⟨idle, e | e⟩ | ⟨-, ⟨b, bad, e⟩ | e | e | e⟩ := delimit_cases s l sym <;> rw [e]
  · exact h
  · obtain ⟨idles, -⟩ := follows
    exact frameStart_captureInv h l (slot_none_of_state h l (by simp [idles.1 idle]))
  · exact frameByte_captureInv h l follows b bad
  · exact frameEnd_captureInv h l follows
  · exact frameAbort_captureInv h l
  · refine frameStart_captureInv (frameAbort_captureInv h l) l ?_
    rw [frameAbort_eq]
    dsimp only
    rw [PerLine.get_set_same]
    rfl

theorem FramesRest.captureInv {t : State} (k : FramesRest s t) : t.CaptureInv := by
  obtain ⟨-, cls, capture⟩ | ⟨-, cls, capture⟩ := k
  · exact h.of_eq cls capture
  · refine captureInv_empty capture fun l => ?_
    rw [cls]
    cases l <;> rfl

theorem receive_captureInv (follows : s.Follows l) (sym : Symbol) : (receive l sym s).CaptureInv := by
  have ported : ∀ p, (s.setPort l p).CaptureInv := fun _ => h
  obtain e | ⟨p, -, -, -, e⟩ | e | ⟨-, e⟩ | ⟨up, e⟩ := receive_cases s l sym <;> rw [e]
  · exact h
  · exact ported p
  · exact (FramesRest.of_egress (egressUp_reach _ l)).captureInv (ported _)
  · have aborted : (abortReception l s).CaptureInv := by
      unfold abortReception
      split
      · exact h
      · exact frameAbort_captureInv h l
    unfold lineDown
    dsimp only
    split
    · exact (FramesRest.of_reset s _).captureInv h
    · exact (FramesRest.of_egress (egressDown_reach _ l)).captureInv
        (s := (abortReception l s).setPort l _) aborted
  · refine delimit_captureInv (ported _) l ?_ sym
    unfold State.Follows at follows ⊢
    simpa only [setPort_port, setPort_cls, PerLine.get_set_same, afterSymbol_rx, afterSymbol_line] using follows

/-- Every act keeps the linkage of slots and frames, where receptions and classifiers are in step. -/
theorem act_captureInv (frames : s.FramesInv) {t : State} (a : Act s t) : t.CaptureInv := by
  obtain ⟨l, sym, rfl⟩ | rest | ⟨k, r, bs, held, -, cls, capture⟩ | ⟨-, cls, capture⟩ := act_frames a
  · exact receive_captureInv h l (frames.1 l) sym
  · exact rest.captureInv h
  · have unheld : ∀ m, (s.cls.get m).slot ≠ some k := fun m e => by
      obtain ⟨fills, -⟩ := h
      obtain ⟨r', bs', filling, -⟩ := fills m k e
      exact absurd (held.symm.trans filling) (by simp)
    exact captureInv_empty1 h (fun m => by rw [cls]; exact unheld m) (fun m => .inl (by rw [cls]))
      (fun m _ => by rw [cls]) capture
  · exact captureInv_empty capture fun m => by rw [cls]; rfl

end

/-! ## Every step -/

theorem powerOnFrom_frameBounds (straps : BitVec 6) (low : Bool) (s : State) :
    ({ powerOnFrom straps s with resetLow := low } : State).FrameBounds :=
  ⟨fun p => by cases p <;> exact none_bounded, empty_short⟩

theorem powerOnFrom_captureInv (straps : BitVec 6) (low : Bool) (s : State) :
    ({ powerOnFrom straps s with resetLow := low } : State).CaptureInv :=
  captureInv_empty rfl fun l => by cases l <;> rfl

theorem leaves_bounds {s t : State} (h : s.EgressBounds ∧ s.FrameBounds) (k : Leaves s t) :
    t.EgressBounds ∧ t.FrameBounds := by
  cases k with
  | still => exact h
  | low => exact ⟨powerOnFrom_bounds _ _ s, powerOnFrom_frameBounds _ _ s⟩
  | rise straps wasLow => exact ⟨powerOnFrom_bounds straps false s, powerOnFrom_frameBounds straps false s⟩
  | act awake a => exact ⟨act_egressBounds h.1 a, act_frameBounds h.2 a⟩

theorem leaves_captureInv {s t : State} (h : s.FramesInv ∧ s.CaptureInv) (k : Leaves s t) : t.CaptureInv := by
  cases k with
  | still => exact h.2
  | low => exact powerOnFrom_captureInv _ _ s
  | rise straps wasLow => exact powerOnFrom_captureInv straps false s
  | act awake a => exact act_captureInv h.2 h.1 a

theorem tick_bounds {s : State} (h : s.EgressBounds ∧ s.FrameBounds) :
    (tick s).EgressBounds ∧ (tick s).FrameBounds := by
  unfold tick
  split
  · exact h
  · exact h

theorem tick_captureInv {s : State} (h : s.CaptureInv) : (tick s).CaptureInv := by
  unfold tick
  split
  · exact h
  · exact h

/-- Settles O57: each act keeps the bounds of the egress side and of reception, and, where receptions and classifiers
are in step, the linkage of slots and frames. -/
theorem stepKeepsStoresBounded : Obligations.StepKeepsStoresBounded := by
  refine fun s t stepped => ⟨fun bounds => ?_, fun frames linked => ?_⟩
  · rw [boundsInv_iff] at bounds ⊢
    exact step_leads (pre := fun s => s.EgressBounds ∧ s.FrameBounds) (fun _ _ _ h => h) (fun _ => tick_bounds)
      (fun _ _ h k => leaves_bounds h k) bounds stepped
  · exact step_leads (pre := fun s => s.FramesInv ∧ s.CaptureInv) (fun _ _ _ h => h)
      (fun _ h => tick_captureInv h.2) (fun _ _ h k => leaves_captureInv h k) ⟨frames, linked⟩ stepped

end Sys2Proof.Machine
end

section
/-! SUPPORT. The idle step, the power-on condition, the reset pin, and the invariants at power-on. -/

namespace Sys2Proof.Machine

/-! ## The idle step -/

/-- With nothing due there is no next event; otherwise it is one of those due (log 2). -/
theorem nextDue_cases (s : State) :
    (s.due = [] ∧ s.nextDue = none) ∨ ∃ i ∈ s.due, s.nextDue = some i := by
  unfold State.nextDue
  by_cases none : s.due = []
  · exact .inl ⟨none, by rw [none]; rfl⟩
  · have inside : Config.idleChoice s.choices % s.due.length < s.due.length :=
      Nat.mod_lt _ (List.length_pos_iff.2 none)
    exact .inr ⟨_, List.getElem_mem inside, List.getElem?_eq_getElem inside⟩

/-- Settles O2: an empty queue leaves what is due, and nothing due leaves the tick. -/
theorem idleStepTakesDueEventOrTicks : Obligations.IdleStepTakesDueEventOrTicks := by
  intro s empty
  have stepped : step s = idle s := by simp only [step, empty]
  have ticked : tick s = { s with timebase := if s.resetLow then s.timebase else s.timebase + 1 } := by
    unfold tick
    split <;> rfl
  rw [stepped]
  unfold idle
  obtain ⟨none, nothing⟩ | ⟨i, due, next⟩ := nextDue_cases s
  · refine ⟨fun _ => ?_, fun some => absurd none some⟩
    rw [nothing, ← ticked]
  · refine ⟨fun none => ?_, fun _ => ⟨i, due, by rw [next]⟩⟩
    rw [none] at due
    exact absurd due (by simp)

/-! ## Power-on -/

theorem powerOn_port (straps : BitVec 6) (l : Line) : (State.powerOn straps).port.get l = LinePort.powerOn := by
  cases l <;> rfl

theorem powerOn_cls (straps : BitVec 6) (l : Line) : (State.powerOn straps).cls.get l = Classifier.empty := by
  cases l <;> rfl

theorem powerOn_queue (straps : BitVec 6) (p : Line) (c : TrafficClass) : (State.powerOn straps).queue p c = [] := by
  cases p <;> exact Vector.getElem_replicate _

theorem powerOn_lane (straps : BitVec 6) (p : Line) (c : TrafficClass) :
    (State.powerOn straps).lane p c = PacerLane.empty := by
  cases p <;> exact Vector.getElem_replicate _

theorem powerOn_context (straps : BitVec 6) (i : Fin 4) : (State.powerOn straps).contexts[i] = none :=
  Vector.getElem_replicate _

theorem powerOn_slot (straps : BitVec 6) (k : Fin 4) : (State.powerOn straps).capture.slot k = .empty :=
  Vector.getElem_replicate _

/-- R169: every counter is 0 at power-on. -/
theorem zero_read (id : CounterId) : (Counters.zero.read id).toNat = 0 := by
  have arrival : ∀ i : Fin 14, (zeroArrival[i]).toNat = 0 := by decide
  have egress : ∀ i : Fin 9, (zeroEgress[i]).toNat = 0 := by decide
  have line : ∀ i : Fin 6, ((Vector.replicate 6 (Counter.frame 0))[i]).toNat = 0 := by decide
  have hits : ∀ i : Fin 42, ((Vector.replicate 42 (Counter.frame 0))[i]).toNat = 0 := fun i =>
    congrArg Counter.toNat (Vector.getElem_replicate _)
  have capture : ∀ i : Fin 2, ((Vector.replicate 2 (Counter.frame 0))[i]).toNat = 0 := by decide
  have classes : ∀ c : TrafficClass, (Vector.replicate 8 zeroEgress)[c] = zeroEgress := fun c =>
    Vector.getElem_replicate _
  cases id with
  | arrival l k => cases l <;> exact arrival k.index
  | egress l c k => cases l <;> exact (congrArg (fun v => (v[k.index]).toNat) (classes c)).trans (egress k.index)
  | line l k => cases l <;> exact line k.index
  | hit k => exact hits k.index
  | capture k => exact capture k.index

theorem generation0_identity (straps : BitVec 6) :
    (Bank.generation0 straps).identity = 0x3C000000#32 ||| straps.setWidth 32 := by
  have entry : (Bank.generation0 straps).station[(0 : Fin 32)] = identityEntry (powerOnIdentity straps) :=
    Vector.getElem_set_self _
  exact congrArg StationEntry.id entry

/-- Settles O3: the power-on state, block by block. -/
theorem powerOnCondition : Obligations.PowerOnCondition := by
  refine ⟨rfl, fun straps p c => ?_⟩
  refine ⟨rfl, rfl, generation0_identity straps, rfl, rfl, rfl, rfl, rfl, rfl, ?_, ?_, ?_, ?_, ?_, ?_, rfl,
    powerOn_queue straps p c, powerOn_lane straps p c, ?_, ?_, ?_, rfl, powerOn_context straps, powerOn_slot straps,
    rfl, zero_read⟩
  all_goals cases p <;> rfl

/-! ## The reset pin -/

theorem cut_close (t : Transmitter) : t.cut.close = if t.launch.isNone then t.close else .aborted := by
  unfold Transmitter.cut
  split <;> simp_all

/-- R20: while RESETn is low no command but the two of the pin does anything. -/
theorem exec_low {c : Instr} {s : State} (low : s.resetLow = true) (assert : c ≠ .resetnAssert)
    (release : ∀ straps, c ≠ .resetnRelease straps) : exec c s = .next s := by
  have still : ∀ f : State → State, Host.Outcome.next (φ := Fault) (ρ := Refusal) (awake f s) = .next s := fun f =>
    congrArg _ (awake_low s f low)
  cases c with
  | resetnAssert => exact absurd rfl assert
  | resetnRelease straps => exact absurd rfl (release straps)
  | symbolReceived _ _ | egressDecision _ | launchCompletion _ | residenceExpiry _ _ | windowRelease _ _
  | ageingEvent _ _ | cadenceExpiry _ | requestTake | openSession _ | closeSession _ | rd _ | wr _ | fill _ | commit _
  | revert _ | copyBackCompletion | stat _ | capt _ | free _ | query _ | resetCounters | resetTraffic | resetFull
  | leaseExpiry => exact still _

/-- Settles O4: the two commands of the reset pin, and that nothing else acts while it is low. -/
theorem resetnHoldsPartAtPowerOn : Obligations.ResetnHoldsPartAtPowerOn := by
  refine ⟨fun straps s => ⟨rfl, fun low => ?_, fun high => ?_, fun p => ⟨cut_launch _, cut_close _⟩⟩,
    fun c s low assert release => exec_low low assert release⟩
  · show Host.Outcome.next (if s.resetLow then powerOnFrom straps s else s) = _
    rw [if_pos low]
    rfl
  · show Host.Outcome.next (if s.resetLow then powerOnFrom straps s else s) = _
    rw [if_neg (by simp [high])]

/-! ## The invariants at power-on -/

theorem powerOn_heldCells (straps : BitVec 6) (e : Line) : (State.powerOn straps).heldCells e = 0 := by
  have queued : (State.powerOn straps).queuedCells e = 0 := by
    simp only [State.queuedCells, powerOn_queue]
    rfl
  unfold State.heldCells
  rw [queued]
  cases e <;> rfl

theorem powerOn_framesInv (straps : BitVec 6) : (State.powerOn straps).FramesInv := by
  refine ⟨fun l => ?_, fun m adopting => absurd adopting (by simp [State.powerOn, TableStore.powerOn]), ?_, fun e => ?_⟩
  · unfold State.Follows
    rw [powerOn_port, powerOn_cls]
    decide
  · rw [powerOn_heldCells, powerOn_heldCells]
    rfl
  · rw [powerOn_heldCells]
    cases e <;> rfl

theorem powerOn_isEditor (straps : BitVec 6) (i : Fin 4) : (State.powerOn straps).isEditor i = false := by
  unfold State.isEditor
  rw [powerOn_context]

theorem powerOn_sessionInv (straps : BitVec 6) : (State.powerOn straps).SessionInv := by
  have waits : (State.powerOn straps).agent.state = .waiting := rfl
  refine ⟨⟨fun _ => rfl, fun _ => rfl⟩, fun _ => rfl, fun i j editor => ?_, fun _ _ _ => rfl, fun waiting => ?_,
    fun _ dirty => absurd dirty (by simp [State.powerOn, TableStore.powerOn])⟩
  · rw [powerOn_isEditor] at editor
    exact absurd editor (by simp)
  · rw [waits] at waiting
    exact absurd waiting (by simp)

/-- R23, R25: the generation-0 contents pass their checks: entry 0 for each strap value, the others by their one
value. -/
theorem generation0_entriesOk (straps : BitVec 6) : (Bank.generation0 straps).EntriesOk := by
  have first : ∀ straps : BitVec 6, (identityEntry (powerOnIdentity straps)).okAt 0 = true := by decide
  have others : ∀ i : Fin 32, i ≠ 0 → emptyStation.okAt i.val = true := by decide
  refine ⟨fun i => ?_, fun i => ?_, fun i => ?_, fun p => ?_, (by decide : openDevPol.ok = true)⟩
  · by_cases zero : i = 0
    · have entry : (Bank.generation0 straps).station[(0 : Fin 32)] = identityEntry (powerOnIdentity straps) :=
        Vector.getElem_set_self _
      rw [zero, entry]
      exact first straps
    · have entry : (Bank.generation0 straps).station[i] = emptyStation :=
        (getElem_set_row _ 0 i _).trans ((if_neg zero).trans (Vector.getElem_replicate _))
      rw [entry]
      exact others i zero
  · have entry : (Bank.generation0 straps).rules[i] = emptyRule := Vector.getElem_replicate _
    rw [entry]
    decide
  · have entry : (Bank.generation0 straps).classpol[i] = openClassPol := Vector.getElem_replicate _
    rw [entry]
    decide
  · cases p <;> exact (by decide : openPortPol.ok = true)

theorem powerOn_cadenceInv (straps : BitVec 6) (p : Line) : (State.powerOn straps).CadenceInv p := by
  have port : (State.powerOn straps).portPol p = openPortPol := by cases p <;> rfl
  have unit : (State.powerOn straps).cadence.get p = Cadence.powerOn := by cases p <;> rfl
  have down : (State.powerOn straps).isUp p = false := by cases p <;> rfl
  unfold State.CadenceInv
  rw [port, unit, down]
  decide

/-- Settles O60: each invariant at power-on. -/
theorem powerOnSatisfiesInvariants : Obligations.PowerOnSatisfiesInvariants := by
  intro straps
  obtain ⟨bounds, quiet⟩ := (boundsInv_iff _).2
    ⟨powerOnFrom_bounds straps false (State.powerOn straps),
      powerOnFrom_frameBounds straps false (State.powerOn straps)⟩
  refine ⟨powerOn_framesInv straps, ⟨fun _ _ => rfl, fun moved => absurd rfl moved⟩, powerOn_sessionInv straps,
    ⟨generation0_entriesOk straps, generation0_entriesOk straps⟩, powerOn_cadenceInv straps, bounds, quiet,
    powerOnFrom_captureInv straps false (State.powerOn straps), ⟨List.nodup_nil, fun i => ?_, fun i j c d taken => ?_⟩,
    ⟨fun p c d queued => ?_, fun l d reserved => ?_⟩, fun p c => ?_⟩
  · rw [powerOn_context]
    simp [State.powerOn]
  · rw [powerOn_context] at taken
    exact absurd taken (by simp)
  · rw [powerOn_queue] at queued
    exact absurd queued (by simp)
  · exact absurd reserved (by cases l <;> simp [State.powerOn, PerLine.get, Classifier.empty])
  · rw [powerOn_lane, powerOn_queue]
    simp [PacerLane.empty]

end Sys2Proof.Machine
end

section
/-! SUPPORT. The line state machine (R2 to R6, Table 1-3): evaluations of the heads at line up, and line down as a
whole. -/

namespace Sys2Proof.Machine

/-! ## Evaluations of heads -/

/-- A lane that stands as an evaluation leaves it goes on so while its queue, its lane, the time and the tables
stand. -/
theorem State.Evaluated.of_eq {s t : State} {p : Line} {c : TrafficClass} (h : s.Evaluated p c)
    (lane : t.lane p c = s.lane p c) (queue : t.queue p c = s.queue p c) (now : t.timebase = s.timebase)
    (pol : t.classPol p c = s.classPol p c) : t.Evaluated p c := by
  unfold State.Evaluated State.Allows at h ⊢
  rw [lane, queue, now, pol]
  exact h

section

variable (s : State) (p : Line) (c : TrafficClass)

/-- R101: a record of a head counts a hold when it finds held what was not held before, and moves no other counter. -/
theorem recordHead_read (b : Bool) (id : CounterId) :
    (recordHead p c b s).counters.read id = (s.counters.read id).add
      (if id = .egress p c .windowHolds ∧ ((recordHead p c b s).lane p c).head = .held ∧ (s.lane p c).head ≠ .held
        then 1 else 0) := by
  rw [(recordHead_lane s p c b).1]
  by_cases empty : s.queue p c = []
  · rw [recordHead_empty s p c b empty]
    simp [empty, Counter.add_zero]
  · cases b
    · rw [recordHead_held s p c empty]
      by_cases held : (s.lane p c).head = .held
      · simp [held, Counter.add_zero]
      · simp only [held, if_false, empty, Counters.read_add, Bool.false_eq_true, ne_eq, not_false_eq_true,
          and_true]
        split <;> simp [Counter.add_zero]
    · rw [recordHead_allowed s p c empty]
      simp [empty, Counter.add_zero]

theorem evaluateOffer_counters : (evaluateOffer p c s).counters = (evaluate p c s).counters := by
  rw [evaluateOffer_eq]
  split
  · rw [offer_eq]
  · rfl

theorem evaluateOffer_read (id : CounterId) :
    (evaluateOffer p c s).counters.read id = (s.counters.read id).add
      (if id = .egress p c .windowHolds ∧ ((evaluateOffer p c s).lane p c).head = .held ∧ (s.lane p c).head ≠ .held
        then 1 else 0) := by
  rw [evaluateOffer_counters, evaluateOffer_lane]
  exact recordHead_read s p c (s.Allows p c) id

theorem evaluateOffer_lane_ne (k : TrafficClass) (q : Line) (other : (q, k) ≠ (p, c)) :
    (evaluateOffer p c s).lane q k = s.lane q k :=
  (evaluateOffer_lane s p c q k).trans ((evaluate_evaluated s p c).2.2 q k other)

theorem evaluateOffer_history (q : Line) (k : TrafficClass) :
    ((evaluateOffer p c s).lane q k).history = (s.lane q k).history := by
  by_cases same : (q, k) = (p, c)
  · obtain ⟨rfl, rfl⟩ := Prod.mk.inj same
    rw [evaluateOffer_lane]
    exact (evaluate_evaluated s q k).2.1
  · rw [evaluateOffer_lane_ne s p c k q same]

theorem evaluateOffer_evaluated : (evaluateOffer p c s).Evaluated p c := by
  obtain ⟨pa, ct, e⟩ := recordHead_shape s p c (s.Allows p c)
  obtain ⟨pa', of, ct', e'⟩ := evaluateOffer_shape s p c
  refine (evaluate_evaluated s p c).1.of_eq (evaluateOffer_lane s p c p c) ?_ ?_ ?_ <;>
    rw [e', evaluate_eq, e] <;> rfl

/-- The offers after an evaluation with its offer (R100). -/
theorem evaluateOffer_offers :
    (evaluateOffer p c s).offers =
      if ((evaluateOffer p c s).lane p c).head = .eligible then s.offered p else s.offers := by
  obtain ⟨pa, ct, e⟩ := recordHead_shape s p c (s.Allows p c)
  rw [evaluateOffer_lane, evaluateOffer_eq]
  split
  · rw [offer_eq, evaluate_eq, e]
    rfl
  · rw [evaluate_eq, e]

end

/-- The classes of a line evaluated one after the other: each stands evaluated, keeps its history, and counts its own
hold. -/
theorem evaluateAll (p : Line) (cs : List TrafficClass) (once : cs.Nodup) : ∀ s : State,
    let t := cs.foldl (fun s c => evaluateOffer p c s) s
    (∀ c, (t.lane p c).history = (s.lane p c).history ∧ (c ∉ cs → t.lane p c = s.lane p c)) ∧
      (∀ c ∈ cs, t.Evaluated p c ∧
        t.counters.read (.egress p c .windowHolds) = (s.counters.read (.egress p c .windowHolds)).add
          (if (t.lane p c).head = .held ∧ (s.lane p c).head ≠ .held then 1 else 0)) ∧
      s.CountsOnly t (fun id => ∃ c ∈ cs, id = .egress p c .windowHolds) ∧
      ∃ pa of ct, t = { s with pacer := pa, offers := of, counters := ct } := by
  induction cs with
  | nil =>
    exact fun s => ⟨fun c => ⟨rfl, fun _ => rfl⟩, fun c inside => absurd inside (by simp), .of_eq rfl, _, _, _, rfl⟩
  | cons c cs ih =>
    intro s
    obtain ⟨fresh, once⟩ := List.nodup_cons.1 once
    obtain ⟨lanes, evaluated, counts, pa, of, ct, shape⟩ := ih once (evaluateOffer p c s)
    obtain ⟨pa', of', ct', first⟩ := evaluateOffer_shape s p c
    rw [List.foldl_cons]
    generalize cs.foldl (fun s c => evaluateOffer p c s) (evaluateOffer p c s) = t at *
    have head : t.lane p c = (evaluateOffer p c s).lane p c := (lanes c).2 fresh
    refine ⟨fun k => ⟨?_, fun outside => ?_⟩, fun k inside => ?_, fun id other => ?_, pa, of, ct, ?_⟩
    · rw [(lanes k).1, evaluateOffer_history]
    · obtain ⟨ne, outside⟩ := not_or.1 fun o => outside (List.mem_cons.2 o)
      rw [(lanes k).2 outside, evaluateOffer_lane_ne s p c k p (by simp [ne])]
    · by_cases same : k = c
      · subst same
        refine ⟨(evaluateOffer_evaluated s p k).of_eq head ?_ ?_ ?_, ?_⟩
        · rw [shape]
          rfl
        · rw [shape]
        · rw [shape]
          rfl
        · rw [counts _ (by simpa using fresh), evaluateOffer_read, head]
          simp
      · have later := (List.mem_cons.1 inside).resolve_left same
        obtain ⟨stands, read⟩ := evaluated k later
        refine ⟨stands, ?_⟩
        rw [read, evaluateOffer_lane_ne s p c k p (by simp [same]), evaluateOffer_read]
        simp [same, Counter.add_zero]
    · rw [counts id fun ⟨k, inside, e⟩ => other ⟨k, List.mem_cons_of_mem _ inside, e⟩, evaluateOffer_read,
        if_neg fun found => other ⟨c, List.mem_cons_self .., found.1⟩, Counter.add_zero]
    · rw [shape, first]

/-! ## Line down -/

variable (s : State) (l : Line)

/-- R6, Table 1-3: a frame in reception ends with a frame abort; with none, nothing changes. -/
theorem abortReception_eq :
    abortReception l s =
      if (s.port.get l).rx.state = .idle then s
      else
        { s with
          port := s.port.set l { s.port.get l with rx := Reception.none }
          cls := s.cls.set l Classifier.empty
          store := { s.store with phase := s.phaseEnding l }
          pool := s.pool.giveBack l.opposite (s.cls.get l).reservation
          capture := s.capture.giveUp (s.cls.get l).slot } := by
  unfold abortReception
  rw [frameAbort_eq]

/-- The line at line down, before its egress side acts. -/
def State.lineClosed (s : State) (l : Line) : State :=
  (abortReception l s).setPort l { LinePort.powerOn with rx := ((abortReception l s).port.get l).rx }

theorem lineDown_eq :
    lineDown l s =
      if s.losesAwaited l then fullReset (egressDown l (s.lineClosed l)) else egressDown l (s.lineClosed l) := rfl

/-- The line closed but for the frame it had in reception, and what closing leaves as it was. -/
theorem lineClosed_shape :
    ∃ po cl ph pl ca, s.lineClosed l =
      { s with port := po, cls := cl, store := { s.store with phase := ph }, pool := pl, capture := ca } := by
  unfold State.lineClosed
  rw [abortReception_eq]
  split
  · exact ⟨_, _, _, _, _, rfl⟩
  · exact ⟨_, _, _, _, _, rfl⟩

theorem lineClosed_port :
    (s.lineClosed l).port.get l =
        { LinePort.powerOn with rx := if (s.port.get l).rx.state = .idle then (s.port.get l).rx else Reception.none } ∧
      (s.lineClosed l).port.get l.opposite = s.port.get l.opposite := by
  unfold State.lineClosed
  rw [abortReception_eq]
  split <;> simp

theorem lineClosed_idle : ((s.lineClosed l).port.get l).rx.state = .idle := by
  rw [(lineClosed_port s l).1]
  dsimp only
  split
  · assumption
  · rfl

/-- R159: a line down that loses the awaited reply is a FULL reset, with every launch cut. -/
theorem lineDown_awaited (awake : s.resetLow = false) (lost : s.losesAwaited l = true) :
    lineDown l s =
      { State.powerOn s.straps with
        tx := { n := s.tx.n.cut, s := s.tx.s.cut }, choices := s.choices, pending := s.pending } := by
  have reach := egressDown_reach (s.lineClosed l) l
  obtain ⟨po, cl, ph, pl, ca, closed⟩ := lineClosed_shape s l
  have straps : (egressDown l (s.lineClosed l)).straps = s.straps := by rw [reach.straps, closed]
  have low : (egressDown l (s.lineClosed l)).resetLow = false := by rw [reach.resetLow, closed]; exact awake
  have choices : (egressDown l (s.lineClosed l)).choices = s.choices := by rw [reach.choices, closed]
  have pending : (egressDown l (s.lineClosed l)).pending = s.pending := by rw [reach.pending, closed]
  have tx : (egressDown l (s.lineClosed l)).tx = s.tx.set l (s.tx.get l).cut := by
    obtain ⟨qs, pa, po, ct, e⟩ := egressDown_shape (s.lineClosed l) l
    rw [e, closed]
  have cut : (⟨(s.tx.set l (s.tx.get l).cut).n.cut, (s.tx.set l (s.tx.get l).cut).s.cut⟩ : PerLine Transmitter) =
      { n := s.tx.n.cut, s := s.tx.s.cut } := by
    cases l <;> simp [PerLine.set, PerLine.get, cut_cut]
  rw [lineDown_eq, if_pos lost]
  unfold fullReset powerOnFrom
  rw [straps, low, choices, pending, tx, cut]
  rfl

/-- R4, R6: after the fourth error the line is DOWN with its counts 0, and nothing is in reception, in transmission or
queued on it. -/
theorem lineDown_quiet :
    ((lineDown l s).port.get l).line = .down ∧ ((lineDown l s).port.get l).errorCount = 0 ∧
      ((lineDown l s).port.get l).cleanCount = 0 ∧ ((lineDown l s).port.get l).rx.state = .idle ∧
      (lineDown l s).txFree l = true ∧ (lineDown l s).service.get l = [] ∧ ∀ c, (lineDown l s).queue l c = [] := by
  rw [lineDown_eq]
  split
  · generalize egressDown l (s.lineClosed l) = u
    have free : (fullReset u).txFree l = true := by
      cases l <;> exact Option.isNone_iff_eq_none.2 (cut_launch _)
    refine ⟨?_, ?_, ?_, ?_, free, ?_, powerOn_queue u.straps l⟩ <;> cases l <;> rfl
  · have reach := egressDown_reach (s.lineClosed l) l
    have queue := egressDown_queue (s.lineClosed l) l
    obtain ⟨qs, pa, po, ct, e⟩ := egressDown_shape (s.lineClosed l) l
    rw [reach.port]
    refine ⟨?_, ?_, ?_, lineClosed_idle s l, ?_, ?_, queue⟩
    · rw [(lineClosed_port s l).1]
      rfl
    · rw [(lineClosed_port s l).1]
      rfl
    · rw [(lineClosed_port s l).1]
      rfl
    · rw [e]
      show (((s.lineClosed l).tx.set l _).get l).launch.isNone = true
      rw [PerLine.get_set_same, cut_launch]
      rfl
    · rw [e]
      exact PerLine.get_set_same _ _ _

theorem exec_fourth {s : State} (awake : s.resetLow = false) (up : (s.port.get l).line = .up)
    (errors : (s.port.get l).errorCount = 3) : exec (.symbolReceived l .invalid) s = .next (lineDown l s) := by
  rw [exec_symbol l .invalid awake, receive_fourth s l up errors]

/-- Settles O5: DOWN answers IDLE alone, and power-on, a FULL reset and the fourth error lead to it. -/
theorem downLineAlignsOnIdle : Obligations.DownLineAlignsOnIdle := by
  refine fun l s straps awake => ⟨fun down => ⟨?_, fun sym other => ?_⟩, ?_, ?_, fun up errors => ?_⟩
  · rw [exec_symbol l .idle awake, receive_down_idle s l down]
  · rw [exec_symbol l sym awake, receive_down_other s l down other]
  · rw [powerOn_port]
    rfl
  · cases l <;> rfl
  · exact ⟨_, exec_fourth l awake up errors, (lineDown_quiet s l).1⟩

theorem startTimer_up {p : Line} (up : s.isUp p = true) :
    startTimer p s = s.setCadence p
      { s.cadence.get p with
        timer := if (s.portPol p).tc = 0 then .stopped
          else .running (s.timebase + (s.portPol p).tc.setWidth 32) } := by
  rw [startTimer_eq, up]
  by_cases zero : (s.portPol p).tc = 0 <;> simp [zero]

theorem offer_up {p : Line} (up : s.isUp p = true) :
    offer p s = { s with offers := if s.txFree p then s.offers.set p (s.offers.get p + 1) else s.offers } := by
  rw [offer_eq, up, Bool.true_and]

/-- R3: the sixteenth IDLE: the heads are evaluated, the timer starts, and a decision is owed. -/
theorem lineUp_effects :
    let t := lineUp l s
    t = { s with
      port := s.port.set l { s.port.get l with line := .up, alignCount := 16, errorCount := 0, cleanCount := 0 }
      cadence := s.cadence.set l
        { s.cadence.get l with
          timer := if (s.portPol l).tc = 0 then .stopped
            else .running (s.timebase + (s.portPol l).tc.setWidth 32) }
      pacer := t.pacer, offers := t.offers, counters := t.counters } ∧
    (∀ c, t.Evaluated l c ∧ (t.lane l c).history = (s.lane l c).history ∧
      t.counters.read (.egress l c .windowHolds) = (s.counters.read (.egress l c .windowHolds)).add
        (if (t.lane l c).head = .held ∧ (s.lane l c).head ≠ .held then 1 else 0)) ∧
    t.pacer.get l.opposite = s.pacer.get l.opposite ∧
    s.CountsOnly t (fun id => ∃ c, id = .egress l c .windowHolds) ∧
    (s.txFree l = true → 0 < t.offers.get l) := by
  have reach := egressUp_reach
    (s.setPort l { s.port.get l with line := .up, alignCount := 16, errorCount := 0, cleanCount := 0 }) l
  intro t
  have pacer : t.pacer.get l.opposite = s.pacer.get l.opposite := reach.pacer
  have folded : t = offer l (startTimer l (classesUp.foldl (fun s c => evaluateOffer l c s)
      (s.setPort l { s.port.get l with line := .up, alignCount := 16, errorCount := 0, cleanCount := 0 }))) := rfl
  generalize hu : s.setPort l { s.port.get l with line := .up, alignCount := 16, errorCount := 0, cleanCount := 0 } = u
    at folded
  obtain ⟨lanes, evaluated, counts, pa, of, ct, shape⟩ := evaluateAll l classesUp classesUp_nodup u
  have up : u.isUp l = true := by simp [← hu, State.isUp]
  generalize classesUp.foldl (fun s c => evaluateOffer l c s) u = v at *
  have stillUp : v.isUp l = true := by rw [shape]; exact up
  have whole : t = { u with
      cadence := u.cadence.set l
        { u.cadence.get l with
          timer := if (u.portPol l).tc = 0 then .stopped
            else .running (u.timebase + (u.portPol l).tc.setWidth 32) }
      pacer := v.pacer, counters := v.counters
      offers := if u.txFree l then v.offers.set l (v.offers.get l + 1) else v.offers } := by
    rw [folded, startTimer_up v stillUp, offer_up (v.setCadence l _) stillUp, shape]
    rfl
  have lane : ∀ c, t.lane l c = v.lane l c := fun c => by rw [whole]; rfl
  refine ⟨?_, fun c => ⟨?_, ?_, ?_⟩, pacer, ?_, fun free => ?_⟩
  · rw [whole, ← hu]
    rfl
  · refine (evaluated c (mem_classesUp c)).1.of_eq (lane c) ?_ ?_ ?_ <;> rw [whole, shape] <;> rfl
  · rw [lane, (lanes c).1, ← hu]
    rfl
  · rw [lane, whole]
    refine (evaluated c (mem_classesUp c)).2.trans ?_
    rw [← hu]
    rfl
  · refine State.CountsOnly.mono (moved := fun id => ∃ c ∈ classesUp, id = .egress l c .windowHolds) ?_
      fun id ⟨c, _, e⟩ => ⟨c, e⟩
    intro id other
    rw [whole]
    refine (counts id other).trans ?_
    rw [← hu]
    rfl
  · have free : u.txFree l = true := by rw [← hu]; exact free
    rw [whole]
    simp [free]

/-- Settles O6: the counts of an ALIGNING line, and the line-up event. -/
theorem aligningLineComesUpAtSixteenIdles : Obligations.AligningLineComesUpAtSixteenIdles := by
  refine ⟨fun l s awake aligning => ⟨fun short => ?_, ?_, fun sym other valid => ?_⟩, fun l s awake aligning last => ?_⟩
  · rw [exec_symbol l .idle awake, receive_aligning_idle s l aligning, if_pos short]
  · rw [exec_symbol l .invalid awake, receive_aligning_invalid s l aligning]
  · rw [exec_symbol l sym awake, receive_aligning_other s l aligning other valid]
  · refine ⟨lineUp l s, ?_, lineUp_effects s l⟩
    rw [exec_symbol l .idle awake, receive_aligning_idle s l aligning, if_neg (by omega)]

/-- A symbol that leaves an UP line UP moves the line's own counts and its reception. -/
theorem exec_up_counts {s : State} {sym : Symbol} (awake : s.resetLow = false) (up : (s.port.get l).line = .up)
    (stays : sym ≠ .invalid ∨ (s.port.get l).errorCount < 3) :
    ∃ t, exec (.symbolReceived l sym) s = .next t ∧ (t.port.get l).line = .up ∧
      (t.port.get l).errorCount = ((s.port.get l).afterSymbol sym).errorCount ∧
      (t.port.get l).cleanCount = ((s.port.get l).afterSymbol sym).cleanCount := by
  have frame := delimit_frame l (s.setPort l ((s.port.get l).afterSymbol sym)) sym
  refine ⟨_, (exec_symbol l sym awake).trans (congrArg _ (receive_up s l sym up stays)), ?_, ?_, ?_⟩
  · rw [frame.line, setPort_port, PerLine.get_set_same, afterSymbol_line, up]
  · rw [frame.errorCount, setPort_port, PerLine.get_set_same]
  · rw [frame.cleanCount, setPort_port, PerLine.get_set_same]

/-- Settles O7: the counts of an UP line, and the fourth error. -/
theorem upLineCountsErrorsAndCleanRuns : Obligations.UpLineCountsErrorsAndCleanRuns := by
  refine fun l s awake up => ⟨fun sym valid => ?_, fun short => ?_, fun errors => ?_⟩
  · obtain ⟨t, run, line, error, clean⟩ := exec_up_counts l awake up (.inl valid)
    rw [afterSymbol_valid _ valid] at error clean
    refine ⟨t, run, line, error.trans ?_, clean.trans ?_⟩ <;> unfold LinePort.afterValid <;> split <;> rfl
  · obtain ⟨t, run, line, error, clean⟩ := exec_up_counts l (sym := .invalid) awake up (.inr short)
    exact ⟨t, run, line, error, clean⟩
  · obtain ⟨down, error, clean, idle, free, service, queue⟩ := lineDown_quiet s l
    exact ⟨_, exec_fourth l awake up errors, down, error, clean, idle, free, service, queue, fun _ _ => rfl⟩

end Sys2Proof.Machine
end

section
/-! SUPPORT. The fourth error of an UP line in full (Table 1-3). -/

namespace Sys2Proof.Machine

variable (s : State) (l : Line)

/-! ## The line closed: what becomes of the frame in reception -/

theorem lineClosed_cls :
    (s.lineClosed l).cls.get l = (if (s.port.get l).rx.state = .idle then s.cls.get l else Classifier.empty) ∧
      (s.lineClosed l).cls.get l.opposite = s.cls.get l.opposite := by
  unfold State.lineClosed
  rw [abortReception_eq]
  split <;> simp

theorem lineClosed_phase :
    (s.lineClosed l).store.phase =
      if (s.port.get l).rx.state = .idle ∨ (s.cls.get l).state ≠ .judging then s.store.phase else s.phaseLeaving l := by
  unfold State.lineClosed
  rw [abortReception_eq]
  by_cases idle : (s.port.get l).rx.state = .idle
  · simp [idle]
  · simp only [idle, if_false, setPort_store, false_or, State.phaseEnding]
    by_cases judging : (s.cls.get l).state = .judging <;> simp [judging]

/-- The cells given back are those of a frame in reception. -/
theorem lineClosed_pool :
    s.pool.Returned l.opposite (if (s.port.get l).rx.state = .idle then 0 else (s.cls.get l).cells)
      (s.lineClosed l).pool := by
  unfold State.lineClosed
  rw [abortReception_eq]
  split
  · exact .none l.opposite _
  · exact giveBack_returned s.pool l.opposite (s.cls.get l)

/-- The slot given up is that of a frame in reception. -/
theorem lineClosed_slot (k : Fin 4) :
    (s.lineClosed l).capture.slot k =
      if (s.port.get l).rx.state = .idle ∨ (s.cls.get l).slot ≠ some k then s.capture.slot k else .empty := by
  unfold State.lineClosed
  rw [abortReception_eq]
  by_cases idle : (s.port.get l).rx.state = .idle
  · simp [idle]
  · simp only [idle, if_false, setPort_capture, false_or, slot_giveUp]
    by_cases holds : (s.cls.get l).slot = some k <;> simp [holds]

theorem lineClosed_claims :
    (s.lineClosed l).capture.claims =
      s.capture.claims.filter fun k => (s.port.get l).rx.state = .idle ∨ (s.cls.get l).slot ≠ some k := by
  unfold State.lineClosed
  rw [abortReception_eq]
  by_cases idle : (s.port.get l).rx.state = .idle
  · simp [idle]
  · simp only [idle, if_false, setPort_capture, false_or, claims_giveUp]

/-- Cells given back on both sides of a line leave the used counts of each line lower by its own. -/
theorem returned_used {p q r : Pool} {j k : Nat} (closed : p.Returned l.opposite j q) (down : q.Returned l k r) :
    r.used = (p.used.set l.opposite (p.used.get l.opposite - j)).set l (p.used.get l - k) := by
  obtain ⟨-, used, -⟩ := closed
  obtain ⟨-, used', -⟩ := down
  rw [used', used, PerLine.get_opposite_set]

/-- Settles O8: line down that loses the awaited reply is a FULL reset; any other closes the line and then its egress
side. -/
theorem fourthErrorHasLineDownEffects : Obligations.FourthErrorHasLineDownEffects := by
  intro l s awake up errors
  refine ⟨fun lost => ?_, fun kept => ?_⟩
  · rw [exec_fourth l awake up errors, lineDown_awaited s l awake lost]
  intro idle given
  have run : exec (.symbolReceived l .invalid) s = .next (egressDown l (s.lineClosed l)) := by
    rw [exec_fourth l awake up errors, lineDown_eq, kept]
    rfl
  obtain ⟨port, oppositePort⟩ := lineClosed_port s l
  obtain ⟨cls, oppositeCls⟩ := lineClosed_cls s l
  have stateIdle := lineClosed_idle s l
  have phase := lineClosed_phase s l
  have slots := lineClosed_slot s l
  have claims := lineClosed_claims s l
  have closedPool := lineClosed_pool s l
  obtain ⟨_, _, _, _, _, closed⟩ := lineClosed_shape s l
  have queue : ∀ c, (s.lineClosed l).queue l c = s.queue l c := fun c => by rw [closed]; rfl
  have queued : (s.lineClosed l).queuedCells l = s.queuedCells l := by rw [closed]; rfl
  have tx : (s.lineClosed l).tx = s.tx := by rw [closed]
  have service : (s.lineClosed l).service = s.service := by rw [closed]
  have counters : (s.lineClosed l).counters = s.counters := by rw [closed]
  have frame : s.lineClosed l = { s with
      port := (s.lineClosed l).port, cls := (s.lineClosed l).cls
      store := { s.store with phase := (s.lineClosed l).store.phase }
      pool := (s.lineClosed l).pool, capture := (s.lineClosed l).capture } := by rw [closed]
  generalize s.lineClosed l = u at *
  have reach := egressDown_reach u l
  have downPool := egressDown_pool u l
  rw [queued, tx] at downPool
  have used := returned_used l closedPool downPool
  obtain ⟨free, -, rearms⟩ := closedPool
  obtain ⟨free', -, rearms'⟩ := downPool
  obtain ⟨replies, notices⟩ := egressDown_read_lost u l
  obtain ⟨_, _, _, _, shape⟩ := egressDown_shape u l
  refine ⟨_, run, ?_, ?_, ?_, fun c => ⟨egressDown_queue u l c, egressDown_lane u l c⟩, ?_, ?_, ?_, ?_, used,
    rearms_trans rearms rearms', fun k inFrame holds => ?_, fun k outside => ?_, ?_, ?_, fun c => ?_, fun c => ?_, ?_,
    ?_, fun id classes reply notice => ?_, ?_, ?_, ?_, ?_, ?_, ?_, ?_, ?_, ?_⟩
  · rw [reach.port, port]
    rfl
  · rw [reach.port]
    exact stateIdle
  · rw [reach.cls]
    exact cls
  · have cadence : u.cadence = s.cadence := by rw [frame]
    rw [shape]
    show (u.cadence.set l _).get l = _
    rw [PerLine.get_set_same, cadence]
    rfl
  · rw [shape]
    exact PerLine.get_set_same _ _ _
  · rw [shape]
    show (u.tx.set l _).get l = _
    rw [PerLine.get_set_same, tx]
  · rw [free', free]
    exact (Nat.add_assoc _ _ _).symm
  · rw [reach.capture, slots, if_neg (not_or.2 ⟨inFrame, fun n => n holds⟩)]
  · rw [reach.capture, slots, if_pos outside]
  · rw [reach.capture]
    exact claims
  · rw [reach.store]
    exact phase
  · rw [egressDown_read_flush, queue, counters]
  · rw [egressDown_read_launchAbort, tx, counters]
  · rw [replies, service, counters]
  · rw [notices, service, counters]
  · refine (egressDown_counts u l id ?_).trans (by rw [counters])
    rintro (⟨c, e | e⟩ | e | e)
    · exact (classes c).1 e
    · exact (classes c).2 e
    · exact reply e
    · exact notice e
  · rw [reach.port]
    exact oppositePort
  · rw [reach.cls]
    exact oppositeCls
  · rw [reach.queues, frame]
  · rw [reach.pacer, frame]
  · rw [reach.cadence, frame]
  · rw [shape]
    show (u.service.set l []).get l.opposite = _
    rw [PerLine.get_set_opposite, service]
  · rw [reach.tx, tx]
  · rw [shape]
    show (u.offers.set l 0).get l.opposite = _
    rw [PerLine.get_set_opposite, frame]
  · rw [shape, frame]

end Sys2Proof.Machine
end

section
/-! SUPPORT. Frames in reception: start, bytes, header complete, and the ends that queue nothing. -/

namespace Sys2Proof.Machine

variable (l : Line)

/-! ## A symbol inside a frame -/

/-- A valid symbol on an UP line reaches the delimiter with the line's counts moved. -/
theorem exec_valid {s : State} {sym : Symbol} (awake : s.resetLow = false) (up : (s.port.get l).line = .up)
    (valid : sym ≠ .invalid) :
    exec (.symbolReceived l sym) s = .next (delimit l sym (s.setPort l (s.port.get l).afterValid)) := by
  rw [exec_symbol l sym awake, receive_up s l sym up (.inl valid), afterSymbol_valid _ valid]

/-- START and the symbols ignored outside a frame, and START inside one as ABORT followed by a frame start. -/
theorem frameStart_of {s t : State} {p : LinePort} (port : t.port.get l = p) (active : t.store.active = s.store.active)
    (generation : t.store.generation = s.store.generation) (now : t.timebase = s.timebase) :
    frameStart l t =
      { t with
        port := t.port.set l
          { p with rx := { state := .header, count := 0, symbolError := false, declared := none, bytes := [] } }
        cls := t.cls.set l
          { state := .judging, bank := s.store.active, generation := s.store.generation, start := s.timebase,
            facts := none, outcome := .pending, trigger := none, reservation := none, slot := none,
            resetMark := false } } := by
  rw [frameStart_eq, port, active, generation, now]
  rfl

/-- Settles O9. -/
theorem startOpensFrameUnderActiveBank : Obligations.StartOpensFrameUnderActiveBank := by
  intro l s awake up opened judged
  have rx : ((s.setPort l (s.port.get l).afterValid).port.get l).rx = (s.port.get l).rx := by simp
  refine ⟨fun idle => ⟨?_, fun sym start valid => ?_⟩, fun inFrame => ?_⟩
  · rw [exec_valid l awake up (by simp), delimit_idle_start _ l (by rwa [rx]),
      frameStart_of l (s := s) (t := s.setPort l (s.port.get l).afterValid) (p := (s.port.get l).afterValid) (by simp)
        rfl rfl rfl]
    simp only [setPort_port, PerLine.set_set, setPort_cls]
    rfl
  · rw [exec_valid l awake up valid, delimit_idle_other _ l (by rwa [rx]) start]
  · refine ⟨frameAbort l (s.setPort l (s.port.get l).afterValid), ?_, ?_⟩
    · rw [exec_valid l awake up (by simp), delimit_cut _ l (by rwa [rx]) (.inr rfl)]
    · rw [exec_valid l awake up (by simp), delimit_restart _ l (by rwa [rx]),
        frameStart_of l (s := s) (t := frameAbort l (s.setPort l (s.port.get l).afterValid)) rfl ?_ ?_ ?_] <;>
        rw [frameAbort_eq] <;> rfl

/-! ## Bytes -/

/-- The state once an UP line has received one byte more of a frame, before its count is looked at. -/
def State.gotByte (s : State) (l : Line) (sym : Symbol) (b : Byte) : State :=
  { s with
    port := s.port.set l { (s.port.get l).afterSymbol sym with rx := (s.port.get l).rx.withByte sym b }
    capture := s.capture.passTo b (s.cls.get l).slot }

theorem exec_byte {s : State} {sym : Symbol} {b : Byte} (receives : s.Receives l sym b)
    (inFrame : (s.port.get l).rx.state ≠ .idle) :
    exec (.symbolReceived l sym) s = .next
      (if (s.port.get l).rx.state = .header ∧ (s.port.get l).rx.count = 15 then headerComplete l (s.gotByte l sym b)
      else if (s.port.get l).rx.state = .inspect ∧ (s.port.get l).rx.count = 63 then
        inspectionComplete l (s.gotByte l sym b)
      else s.gotByte l sym b) := by
  obtain ⟨awake, up, spells⟩ := receives
  have stays : sym ≠ .invalid ∨ (s.port.get l).errorCount < 3 := by
    rcases spells with rfl | ⟨-, -, few⟩
    · exact .inl (by simp)
    · exact .inr few
  have rx : ((s.setPort l ((s.port.get l).afterSymbol sym)).port.get l).rx = (s.port.get l).rx := by simp
  have got : (s.setPort l ((s.port.get l).afterSymbol sym)).withFrameByte l b (sym == .invalid) =
      s.gotByte l sym b := by
    unfold State.withFrameByte State.gotByte
    rw [rx, push_eq]
    simp only [setPort_port, PerLine.get_set_same, PerLine.set_set]
    rfl
  rw [exec_symbol l sym awake, receive_up s l sym up stays,
    delimit_byte _ l sym b (by rwa [rx]) (spells.imp_right fun h => ⟨h.1, h.2.1⟩), frameByte_eq, rx, got]

@[simp] theorem gotByte_port (s : State) (sym : Symbol) (b : Byte) :
    (s.gotByte l sym b).port.get l =
      { (s.port.get l).afterSymbol sym with rx := (s.port.get l).rx.withByte sym b } := by simp [State.gotByte]

@[simp] theorem gotByte_port_opposite (s : State) (sym : Symbol) (b : Byte) :
    (s.gotByte l sym b).port.get l.opposite = s.port.get l.opposite := by simp [State.gotByte]

@[simp] theorem gotByte_cls (s : State) (sym : Symbol) (b : Byte) : (s.gotByte l sym b).cls = s.cls := rfl

/-- A byte of a frame without a slot moves the port only. -/
theorem gotByte_free (s : State) (sym : Symbol) (b : Byte) (free : (s.cls.get l).slot = none) :
    s.gotByte l sym b =
      s.setPort l { (s.port.get l).afterSymbol sym with rx := (s.port.get l).rx.withByte sym b } := by
  unfold State.gotByte
  rw [free]
  rfl

/-- R12: the end verdict, in its order. -/
theorem endVerdict_cases (r : Reception) :
    (r.declared ≠ some r.count ∨ 1028 < r.count → endVerdict r = .length) ∧
      (r.declared = some r.count → r.count ≤ 1028 →
        let good := r.symbolError = false ∧ checkWord (r.bytes.take (r.count - 4)) = wordAt r.bytes (r.count - 4)
        (good → endVerdict r = .good) ∧ (¬ good → endVerdict r = .check)) := by
  unfold endVerdict
  cases declared : r.declared with
  | none => simp
  | some total =>
    refine ⟨fun wrong => ?_, fun whole short => ?_⟩
    · refine if_pos ?_
      by_cases whole : r.count = total
      · exact .inr (by simpa [whole] using wrong)
      · exact .inl whole
    · obtain rfl := Option.some.inj whole
      have fits : ¬ (r.count ≠ r.count ∨ 1028 < r.count) := by omega
      simp only [fits, if_false]
      cases r.symbolError <;> simp

/-- R14: the check word bit by bit. -/
theorem checkWord_bits (bs : List Byte) :
    checkWord bs =
      ~~~ ((bs.flatMap fun b => [7, 6, 5, 4, 3, 2, 1, 0].map b.getLsbD).foldl
        (fun (r : Word) bit => if r.msb = bit then r <<< 1 else (r <<< 1) ^^^ 0x1EDC6F41#32) 0xFFFFFFFF#32) := by
  unfold checkWord
  rw [List.foldl_flatMap]
  congr 1

/-- Settles O10: one byte of a frame, the end verdict, and the check word. -/
theorem frameBytesAreCounted : Obligations.FrameBytesAreCounted := by
  refine ⟨fun l sym b s receives inFrame not16 not64 => ?_, endVerdict_cases, checkWord_bits⟩
  have slots : ∀ o : Option (Fin 4), (s.capture.passTo b o).claims = s.capture.claims ∧
      (∀ k, o ≠ some k → (s.capture.passTo b o).slot k = s.capture.slot k) ∧
      ∀ k, o = some k → (s.capture.passTo b o).slot k = (match s.capture.slot k with
        | .filling r bs => .filling r (if bs.length < 128 then bs ++ [b] else bs)
        | other => other) := fun o => by
    cases o with
    | none => exact ⟨rfl, fun _ _ => rfl, fun k e => absurd e (by simp)⟩
    | some j =>
      refine ⟨CaptureStore.claims_pass s.capture j b, fun k other => ?_, fun k same => ?_⟩
      · exact (CaptureStore.slot_pass s.capture k j b).trans (if_neg fun e => other (by rw [e]))
      · obtain rfl := Option.some.inj same
        exact (CaptureStore.slot_pass s.capture j j b).trans (if_pos rfl)
  obtain ⟨claims, others, own⟩ := slots (s.cls.get l).slot
  refine ⟨s.gotByte l sym b, ?_, gotByte_port l s sym b, gotByte_port_opposite l s sym b, rfl, claims, others, own⟩
  exact (exec_byte l receives inFrame).trans (congrArg _ ((if_neg not16).trans (if_neg not64)))

/-! ## Header complete -/

/-- R60: the five steps of the header, in their order. -/
theorem judgeHeader_steps (identity : StationId) (f : HeaderFacts) :
    (1008 < f.payload → judgeHeader identity f = .drop .length) ∧
      (f.payload ≤ 1008 →
        (f.dest = identity → f.kind = 0x10#8 → judgeHeader identity f = .management) ∧
        (f.dest = identity → f.kind ≠ 0x10#8 → judgeHeader identity f = .drop .screenAddressed) ∧
        (f.dest ≠ identity → f.kind = 0x02#8 → judgeHeader identity f = .drop .terminated) ∧
        (f.dest ≠ identity → f.kind ≠ 0x02#8 → f.hop = 0 → judgeHeader identity f = .drop .hop) ∧
        (f.dest ≠ identity → f.kind ≠ 0x02#8 → f.hop ≠ 0 → judgeHeader identity f = .pending)) := by
  unfold judgeHeader
  refine ⟨fun long => if_pos long, fun short => ?_⟩
  rw [if_neg (by omega)]
  refine ⟨fun own request => ?_, fun own other => ?_, fun others cadence => ?_, fun others kind last => ?_,
    fun others kind more => ?_⟩
  · rw [if_pos own]
    exact if_pos request
  · rw [if_pos own]
    exact if_neg other
  · rw [if_neg others]
    exact if_pos cadence
  · rw [if_neg others]
    exact (if_neg kind).trans (if_pos last)
  · rw [if_neg others]
    exact (if_neg kind).trans (if_neg more)

/-- Header complete of a frame dropped at its header. -/
theorem headerComplete_drop (s : State) {r : DropReason} {k : ArrivalCounter}
    (outcome : judgeHeader (s.store.bank (s.cls.get l).bank).identity (headerFacts (s.port.get l).rx.bytes) = .drop r)
    (counts : r.arrivalCounter = some k) :
    headerComplete l s =
      { s with
        port := s.port.set l
          { s.port.get l with
            rx := { (s.port.get l).rx with
              declared := some (20 + (headerFacts (s.port.get l).rx.bytes).payload), state := .discard } }
        cls := s.cls.set l
          { s.cls.get l with
            facts := some (headerFacts (s.port.get l).rx.bytes), outcome := .drop r, state := .draining }
        store := { s.store with phase := s.phaseLeaving l }
        counters := s.counters.add (.arrival l k) 1 } := by
  unfold headerComplete
  simp only [classifierHeader_drop s l _ outcome counts, PerLine.get_set_same, if_true]
  rfl

/-- Header complete of a frame in JUDGING that its header does not drop. -/
theorem headerComplete_kept (s : State) (judging : (s.cls.get l).state = .judging)
    (outcome : judgeHeader (s.store.bank (s.cls.get l).bank).identity (headerFacts (s.port.get l).rx.bytes) = .pending ∨
      judgeHeader (s.store.bank (s.cls.get l).bank).identity (headerFacts (s.port.get l).rx.bytes) = .management) :
    headerComplete l s =
      { s with
        port := s.port.set l
          { s.port.get l with
            rx := { (s.port.get l).rx with
              declared := some (20 + (headerFacts (s.port.get l).rx.bytes).payload), state := .inspect } }
        cls := s.cls.set l
          { s.cls.get l with
            facts := some (headerFacts (s.port.get l).rx.bytes)
            outcome :=
              judgeHeader (s.store.bank (s.cls.get l).bank).identity (headerFacts (s.port.get l).rx.bytes) } } := by
  unfold headerComplete
  simp only [classifierHeader_kept s l _ outcome, setCls_cls, PerLine.get_set_same, judging]
  rfl

/-- R51, R12: a frame that ends in its header leaves classification and is counted LENGTH. -/
theorem classifierEnd_runt (s : State) (judging : (s.cls.get l).state = .judging) (free : (s.cls.get l).slot = none)
    (unmarked : (s.cls.get l).resetMark = false) (bytes : List Byte) :
    classifierEnd l .length bytes s =
      { s with
        cls := s.cls.set l Classifier.empty
        store := { s.store with phase := s.phaseLeaving l }
        counters := s.counters.add (.arrival l .length) 1 } := by
  have leaving : s.phaseEnding l = s.phaseLeaving l := if_pos judging
  rw [classifierEnd_failed s l unmarked (by simp), leaveIfJudging_eq,
    endUnmarked_judging _ l (by exact judging), dropSlot_eq, leaving]
  simp only [count_eq, free]
  rfl

/-- Settles O11: the fields and steps of a header, its sixteenth byte, and the runt. -/
theorem headerCompleteDecidesFrame : Obligations.HeaderCompleteDecidesFrame := by
  refine ⟨fun bs i => ⟨rfl, rfl, rfl⟩, fun bs => ⟨rfl, rfl, rfl, rfl, rfl, rfl⟩, judgeHeader_steps,
    fun l sym b s receives at16 short judging free => ?_,
    fun l s awake up header undeclared judging free unmarked => ?_⟩
  · intro bytes f o
    have inFrame : (s.port.get l).rx.state ≠ .idle := by simp [at16.1]
    have kept : ((s.port.get l).rx.withByte sym b).bytes = bytes := by
      unfold Reception.withByte
      simp [short, bytes]
    have counted : ((s.port.get l).rx.withByte sym b).count = 16 := by
      unfold Reception.withByte
      simp [at16.2]
    have run : exec (.symbolReceived l sym) s = .next (headerComplete l (s.gotByte l sym b)) :=
      (exec_byte l receives inFrame).trans (congrArg _ (if_pos at16))
    have rx : ((s.gotByte l sym b).port.get l).rx = (s.port.get l).rx.withByte sym b := by simp
    have facts : headerFacts ((s.gotByte l sym b).port.get l).rx.bytes = f := by rw [rx, kept]
    have got := gotByte_free l s sym b free
    refine ⟨_, run, ?_⟩
    obtain ⟨r, k, drop, counts⟩ | other : (∃ r k, o = .drop r ∧ r.arrivalCounter = some k) ∨ o = .pending ∨
        o = .management := judgeHeader_cases _ f
    · have outcome : judgeHeader ((s.gotByte l sym b).store.bank ((s.gotByte l sym b).cls.get l).bank).identity
          (headerFacts ((s.gotByte l sym b).port.get l).rx.bytes) = .drop r := by
        rw [facts]
        exact drop
      rw [headerComplete_drop l _ outcome counts, facts, rx]
      dsimp only
      rw [PerLine.get_set_same]
      refine ⟨counted, kept, rfl, rfl, fun r' k' drop' counts' => ?_, fun none => ?_, ?_, ?_, ?_⟩
      · obtain rfl := FrameOutcome.drop.inj (drop.symm.trans drop')
        obtain rfl := Option.some.inj (counts.symm.trans counts')
        rw [PerLine.get_set_same, drop]
        exact ⟨rfl, rfl, rfl, rfl⟩
      · rw [drop] at none
        exact absurd none (by simp)
      · rw [PerLine.get_set_opposite, gotByte_port_opposite]
      · rw [PerLine.get_set_opposite, gotByte_cls]
      · rw [got]
        rfl
    · have outcome : judgeHeader ((s.gotByte l sym b).store.bank ((s.gotByte l sym b).cls.get l).bank).identity
          (headerFacts ((s.gotByte l sym b).port.get l).rx.bytes) = o := by
        rw [facts]
        rfl
      rw [headerComplete_kept l (s.gotByte l sym b) judging (by rw [outcome]; exact other), outcome, facts, rx]
      dsimp only
      rw [PerLine.get_set_same]
      refine ⟨counted, kept, rfl, rfl, fun r' k' drop' _ => ?_, fun _ => ?_, ?_, ?_, ?_⟩
      · rw [drop'] at other
        exact absurd other (by simp)
      · rw [PerLine.get_set_same]
        exact ⟨rfl, rfl, rfl, rfl⟩
      · rw [PerLine.get_set_opposite, gotByte_port_opposite]
      · rw [PerLine.get_set_opposite, gotByte_cls]
      · rw [got]
        rfl
  · have verdict : endVerdict (s.port.get l).rx = .length := by
      unfold endVerdict
      rw [undeclared]
    refine ⟨_, exec_end l awake up (by simp [header]) (by simp [header]), ?_⟩
    rw [verdict, classifierEnd_runt l (s.ended l _) judging free unmarked]
    refine ⟨PerLine.get_set_same _ _ _, ?_, rfl, rfl, PerLine.get_set_opposite _ _ _,
      PerLine.get_set_opposite _ _ _, rfl⟩
    simp [State.ended]

end Sys2Proof.Machine
end

section
/-! SUPPORT. The ends of frames that queue nothing: a passed frame that fails, a frame cut off, a frame dropped earlier,
and a management frame. -/

namespace Sys2Proof.Machine

variable (s : State) (l : Line)

/-! ## Frame ends that give up what the frame holds -/

/-- R74, R75: a passed frame that is marked or fails returns its cells and its slot, and is counted. -/
theorem classifierEnd_returned {d : Descriptor} (carrying : (s.cls.get l).state = .carrying)
    (holds : (s.cls.get l).reservation = some d) {v : EndVerdict}
    (ends : (s.cls.get l).resetMark = true ∨ v ≠ .good) (bytes : List Byte) :
    classifierEnd l v bytes s =
      { s with
        cls := s.cls.set l Classifier.empty
        pool := s.pool.give l.opposite d.cells
        capture := s.capture.giveUp (s.cls.get l).slot
        counters := s.counters.add
          (if (s.cls.get l).resetMark then .egress l.opposite d.cls .flush
            else if v = .length then .arrival l .length
            else .arrival l .integrity) 1 } := by
  have staying : s.phaseEnding l = s.store.phase := if_neg (by simp [carrying])
  cases marked : (s.cls.get l).resetMark with
  | true =>
    rw [classifierEnd_marked s l marked, staying, holds]
    rfl
  | false =>
    have failed : v ≠ .good := ends.resolve_left (by simp [marked])
    have sort : CounterId.arrival l v.counter = if v = .length then .arrival l .length else .arrival l .integrity := by
      cases v with
      | good => exact absurd rfl failed
      | length => rfl
      | check => rfl
    rw [classifierEnd_failed s l marked failed, leaveIfJudging_eq, staying,
      endUnmarked_carrying _ l (by exact carrying) failed, dropReservation_giveBack, count_eq, dropSlot_eq, sort]
    dsimp only
    rw [holds]
    rfl

/-- R74, R75: a frame without cells that is marked, or was dropped earlier and did not end well, gives up its slot and
is counted no further. -/
theorem classifierEnd_dropped (empty : (s.cls.get l).reservation = none) {v : EndVerdict}
    (dropped : (s.cls.get l).resetMark = true ∨ (s.cls.get l).state = .draining)
    (ends : (s.cls.get l).resetMark = true ∨ (s.cls.get l).slot = none ∨ v ≠ .good) (bytes : List Byte) :
    classifierEnd l v bytes s =
      { s with
        cls := s.cls.set l Classifier.empty
        store := { s.store with phase := s.phaseEnding l }
        capture := s.capture.giveUp (s.cls.get l).slot } := by
  cases marked : (s.cls.get l).resetMark with
  | true =>
    rw [classifierEnd_marked s l marked, empty]
    rfl
  | false =>
    have draining := dropped.resolve_left (by simp [marked])
    have ends := ends.resolve_left (by simp [marked])
    by_cases good : v = .good
    · subst good
      have free := ends.resolve_right (by simp)
      rw [classifierEnd_good s l marked, leaveIfJudging_eq, endUnmarked_draining _ l (by exact draining),
        holdSlot_none _ l (by exact free), free]
      rfl
    · rw [classifierEnd_failed s l marked good, leaveIfJudging_eq, endUnmarked_draining _ l (by exact draining),
        dropSlot_eq]
      rfl

/-- Settles O16: a passed frame that fails or is marked, a frame cut off, and the end of a dropped frame. -/
theorem failedOrCutFrameReturnsCells : Obligations.FailedOrCutFrameReturnsCells := by
  refine ⟨fun l d s awake up inBody carrying holds ends => ?_, fun l sym s awake up inFrame cuts => ?_,
    fun l s awake up inBody empty dropped ends => ?_⟩
  · have inFrame : (s.port.get l).rx.state ≠ .idle := by rcases inBody with h | h <;> simp [h]
    have notInspect : (s.port.get l).rx.state ≠ .inspect := by rcases inBody with h | h <;> simp [h]
    refine ⟨_, exec_end l awake up inFrame notInspect, ?_⟩
    rw [classifierEnd_returned (s.ended l _) l carrying holds ends]
    refine ⟨rfl, rfl, rfl, PerLine.get_set_same _ _ _, ?_, rfl, fun k slot => ?_, fun k other => ?_,
      claims_giveUp _ _, PerLine.get_set_opposite _ _ _, PerLine.get_set_opposite _ _ _, rfl⟩
    · simp [State.ended]
    · exact (slot_giveUp _ _ k).trans (if_pos slot)
    · exact (slot_giveUp _ _ k).trans (if_neg other)
  · have valid : sym ≠ .invalid := by rcases cuts with rfl | rfl <;> simp
    have rx : ((s.setPort l (s.port.get l).afterValid).port.get l).rx = (s.port.get l).rx := by simp
    have run : exec (.symbolReceived l sym) s = .next (frameAbort l (s.setPort l (s.port.get l).afterValid)) := by
      rw [exec_valid l awake up valid, delimit_cut _ l (by rwa [rx]) cuts]
    refine ⟨_, run, ?_⟩
    rw [frameAbort_eq]
    obtain ⟨free, used, -⟩ := giveBack_returned s.pool l.opposite (s.cls.get l)
    refine ⟨by simp [Reception.none], by simp [Reception.none], PerLine.get_set_same _ _ _, free, used,
      giveBack_armed s.pool l.opposite _, fun k slot => ?_, fun k other => ?_, claims_giveUp _ _, rfl, ?_,
      PerLine.get_set_opposite _ _ _, rfl⟩
    · exact (slot_giveUp _ _ k).trans (if_pos slot)
    · exact (slot_giveUp _ _ k).trans (if_neg other)
    · simp
  · have inFrame : (s.port.get l).rx.state ≠ .idle := by rcases inBody with h | h <;> simp [h]
    have notInspect : (s.port.get l).rx.state ≠ .inspect := by rcases inBody with h | h <;> simp [h]
    refine ⟨_, exec_end l awake up inFrame notInspect, ?_⟩
    rw [classifierEnd_dropped (s.ended l _) l empty dropped ends]
    refine ⟨PerLine.get_set_same _ _ _, ?_, rfl, fun k slot => ?_, fun k other => ?_,
      claims_giveUp _ _, rfl, PerLine.get_set_opposite _ _ _, PerLine.get_set_opposite _ _ _, rfl⟩
    · simp [State.ended]
    · exact (slot_giveUp _ _ k).trans (if_pos slot)
    · exact (slot_giveUp _ _ k).trans (if_neg other)

/-! ## Management frames -/

/-- R126: whom a bank admits. -/
theorem admits_iff (b : Bank) (src : StationId) :
    b.admits src = true ↔ b.devpol.admission = .any ∨
      ∃ i : Fin 31, b.station[i.succ].valid = true ∧ b.station[i.succ].manager = true ∧ b.station[i.succ].id = src := by
  unfold Bank.admits Bank.listsManager
  simp only [Bool.or_eq_true, beq_iff_eq, List.any_eq_true, List.mem_finRange, true_and, Bool.and_eq_true, and_assoc]

theorem offerRequest_refused (frame : List Byte) (refused : s.active.admits (wordAt frame 4) = false) :
    offerRequest l frame s = count (.arrival l .mgmtRefused) 1 s := by
  unfold offerRequest
  exact if_neg (by simp [refused])

theorem offerRequest_overflow (frame : List Byte) (admitted : s.active.admits (wordAt frame 4) = true)
    (full : 4 ≤ s.agent.queue.length) : offerRequest l frame s = count (.arrival l .mgmtOverflow) 1 s := by
  unfold offerRequest
  exact (if_pos admitted).trans (if_neg (by omega))

theorem offerRequest_accepted (frame : List Byte) (admitted : s.active.admits (wordAt frame 4) = true)
    (room : s.agent.queue.length < 4) :
    offerRequest l frame s =
      { s with
        agent := if s.agent.state = .waiting
          then { s.agent with queue := s.agent.queue ++ [{ frame := frame, line := l }] : Agent }.afterFinish
          else { s.agent with queue := s.agent.queue ++ [{ frame := frame, line := l }] }
        counters := s.counters.add (.arrival l .mgmtAccepted) 1 } := by
  unfold offerRequest
  rw [if_pos admitted, if_pos room]
  dsimp only
  split
  · rw [nextRequest_eq]
    rfl
  · rfl

/-- R62: a management frame that ends, with no slot and no mark, is failed or offered. -/
theorem classifierEnd_management (gathering : (s.cls.get l).state = .gathering) (free : (s.cls.get l).slot = none)
    (unmarked : (s.cls.get l).resetMark = false) (v : EndVerdict) (bytes : List Byte) :
    classifierEnd l v bytes s =
      (if v = .good then offerRequest l bytes s else count (.arrival l v.counter) 1 s).setCls l Classifier.empty := by
  have staying : leaveIfJudging l s = s := if_neg (by simp [gathering])
  by_cases good : v = .good
  · subst good
    obtain ⟨ag, ct, shape⟩ := offerRequest_shape s l bytes
    rw [classifierEnd_good s l unmarked, staying, endUnmarked_offered s l gathering, if_pos rfl, holdSlot_none _ l]
    rw [shape]
    exact free
  · rw [classifierEnd_failed s l unmarked good, staying, endUnmarked_gathering s l gathering good, if_neg good,
      dropSlot_eq, count_eq]
    dsimp only
    rw [free]
    rfl

/-- Settles O17: admission, and the end of a management frame by its verdict. -/
theorem managementFrameIsOffered : Obligations.ManagementFrameIsOffered := by
  refine ⟨admits_iff, fun l s awake up body gathering free unmarked => ?_⟩
  intro frame
  have run := exec_end l awake up (by simp [body]) (by simp [body])
  rw [classifierEnd_management (s.ended l _) l gathering free unmarked] at run
  generalize verdict : endVerdict (s.port.get l).rx = v at run
  have port : ((s.ended l (s.port.get l).afterValid).port.get l).rx.state = .idle := by simp [State.ended]
  have opposite : (s.ended l (s.port.get l).afterValid).port.get l.opposite = s.port.get l.opposite :=
    PerLine.get_set_opposite _ _ _
  refine ⟨_, run, PerLine.get_set_same _ _ _, ?_⟩
  cases v with
  | length => exact ⟨port, fun _ => ⟨rfl, rfl⟩, nofun, nofun, opposite, PerLine.get_set_opposite _ _ _, rfl⟩
  | check => exact ⟨port, nofun, fun _ => ⟨rfl, rfl⟩, nofun, opposite, PerLine.get_set_opposite _ _ _, rfl⟩
  | good =>
    rw [if_pos rfl]
    obtain ⟨ag, ct, shape⟩ := offerRequest_shape (s.ended l (s.port.get l).afterValid) l frame
    refine ⟨?_, nofun, nofun, fun _ => ⟨fun refused => ?_, fun admitted full => ?_,
      fun admitted room => ?_⟩, ?_, ?_, ?_⟩
    · rw [shape]
      exact port
    · rw [offerRequest_refused (s.ended l _) l frame refused]
      exact ⟨rfl, rfl⟩
    · rw [offerRequest_overflow (s.ended l _) l frame admitted full]
      exact ⟨rfl, rfl⟩
    · rw [offerRequest_accepted (s.ended l _) l frame admitted room]
      refine ⟨fun busy => if_neg busy, fun waiting head rest first => ?_, rfl⟩
      refine (if_pos waiting).trans ?_
      unfold Agent.afterFinish
      dsimp only
      rw [show (s.ended l (s.port.get l).afterValid).agent.queue = s.agent.queue from rfl, first]
    · rw [shape]
      exact opposite
    · rw [shape]
      exact PerLine.get_set_opposite _ _ _
    · rw [shape]
      rfl

end Sys2Proof.Machine
end

section
/-! SUPPORT. A new head of a class queue, store by store (R84, R85, R100, R101). -/

namespace Sys2Proof.Machine

variable (s : State) (p : Line) (c : TrafficClass)

/-- The state with the late heads of a class queue gone and the record of its head fresh, before the head that stays is
evaluated. -/
def State.expired (s : State) (p : Line) (c : TrafficClass) : State :=
  { (s.setQueue p c ((s.queue p c).dropWhile (overdue s.timebase (s.classPol p c).residence))).setLane p c
      { s.lane p c with head := .none, release := none } with
    pool := ((s.queue p c).takeWhile (overdue s.timebase (s.classPol p c).residence)).foldl
      (fun x d => x.give p d.cells) s.pool
    counters := s.counters.add (.egress p c .residence)
      ((s.queue p c).takeWhile (overdue s.timebase (s.classPol p c).residence)).length }

theorem newHead_eq : newHead p c s = evaluateOffer p c (s.expired p c) := by
  unfold newHead
  rw [expireHeads_eq]
  rfl

theorem expired_lane : (s.expired p c).lane p c = { s.lane p c with head := .none, release := none } :=
  lane_setLane_same (s.setQueue p c _) p c _

theorem expired_lane_ne (q : Line) (k : TrafficClass) (other : (q, k) ≠ (p, c)) :
    (s.expired p c).lane q k = s.lane q k :=
  lane_setLane_ne (s.setQueue p c _) q p c k _ other

/-- The queues after an evaluation. -/
theorem evaluateOffer_queues : (evaluateOffer p c s).queues = s.queues := by
  obtain ⟨_, _, _, shape⟩ := evaluateOffer_shape s p c
  rw [shape]

theorem newHead_queue :
    (newHead p c s).queue p c = (s.queue p c).dropWhile (overdue s.timebase (s.classPol p c).residence) := by
  unfold State.queue
  rw [newHead_eq, evaluateOffer_queues]
  exact queue_setQueue_same s p c _

theorem newHead_queue_ne (q : Line) (k : TrafficClass) (other : (q, k) ≠ (p, c)) :
    (newHead p c s).queue q k = s.queue q k := by
  unfold State.queue
  rw [newHead_eq, evaluateOffer_queues]
  exact queue_setQueue_ne s q p c k _ other

theorem newHead_lane_ne (q : Line) (k : TrafficClass) (other : (q, k) ≠ (p, c)) :
    (newHead p c s).lane q k = s.lane q k := by
  rw [newHead_eq, evaluateOffer_lane_ne _ p c k q other, expired_lane_ne s p c q k other]

theorem newHead_history : ((newHead p c s).lane p c).history = (s.lane p c).history := by
  rw [newHead_eq, evaluateOffer_history, expired_lane]

theorem newHead_evaluated : (newHead p c s).Evaluated p c := by
  rw [newHead_eq]
  exact evaluateOffer_evaluated _ p c

theorem newHead_pool :
    (newHead p c s).pool = ((s.queue p c).takeWhile (overdue s.timebase (s.classPol p c).residence)).foldl
      (fun x d => x.give p d.cells) s.pool := by
  obtain ⟨_, _, _, shape⟩ := evaluateOffer_shape (s.expired p c) p c
  rw [newHead_eq, shape]
  rfl

/-- R100: the offers after a new head. -/
theorem newHead_offers :
    (newHead p c s).offers = if ((newHead p c s).lane p c).head = .eligible then s.offered p else s.offers := by
  rw [newHead_eq, evaluateOffer_offers]
  rfl

/-- R85, R101: a new head counts the heads that left, and its own hold; its record started afresh. -/
theorem newHead_read (id : CounterId) :
    (newHead p c s).counters.read id =
      ((s.counters.read id).add
        (if id = .egress p c .residence
          then ((s.queue p c).takeWhile (overdue s.timebase (s.classPol p c).residence)).length else 0)).add
        (if id = .egress p c .windowHolds ∧ ((newHead p c s).lane p c).head = .held then 1 else 0) := by
  rw [newHead_eq, evaluateOffer_read, expired_lane]
  have counters : (s.expired p c).counters = s.counters.add (.egress p c .residence)
      ((s.queue p c).takeWhile (overdue s.timebase (s.classPol p c).residence)).length := rfl
  rw [counters, Counters.read_add]
  split <;> simp [Counter.add_zero]

theorem newHead_counts :
    s.CountsOnly (newHead p c s) fun id => id = .egress p c .residence ∨ id = .egress p c .windowHolds := by
  intro id other
  obtain ⟨residence, holds⟩ := not_or.1 other
  simp [newHead_read, residence, holds, Counter.add_zero]

end Sys2Proof.Machine
end

section
/-! SUPPORT. What a notice event leaves in the counters and the offers, and a good passed frame at its end. -/

namespace Sys2Proof.Machine

/-! ## Notice events -/

/-- A notice event handed over in a state that differs from another in nothing a notice reads. -/
theorem State.Notifies.of_eq {s m t : State} {event : List Byte} (h : m.Notifies t event)
    (seq : m.noticeSeq = s.noticeSeq) (active : m.active = s.active)
    (generation : m.store.generation = s.store.generation) (now : m.timebase = s.timebase)
    (service : m.service = s.service) (up : ∀ p, m.isUp p = s.isUp p) (tx : m.tx = s.tx)
    (lost : ∀ p, m.counters.read (.line p .noticeLost) = s.counters.read (.line p .noticeLost))
    (offers : ∀ p, s.offers.get p ≤ m.offers.get p) : s.Notifies t event := by
  have takes : ∀ p, m.serviceTakes p = s.serviceTakes p := fun p => by
    unfold State.serviceTakes
    rw [up, service]
  have free : ∀ p, m.txFree p = s.txFree p := fun p => by
    unfold State.txFree
    rw [tx]
  unfold State.Notifies at h ⊢
  simp only [seq, active, generation, now, service, takes, free, lost] at h
  obtain ⟨advances, others, target⟩ := h
  refine ⟨advances, others, fun g aimed => ?_⟩
  obtain ⟨taken, full⟩ := target g aimed
  refine ⟨fun room => ?_, full⟩
  obtain ⟨queue, kept, offered⟩ := taken room
  exact ⟨queue, kept, fun idle => lt_of_le_of_lt (offers g.line) (offered idle)⟩

/-- A line is UP while its port says so. -/
theorem isUp_congr {s t : State} {p : Line} (line : (t.port.get p).line = (s.port.get p).line) :
    t.isUp p = s.isUp p := by
  unfold State.isUp
  rw [line]

section

variable (s : State)

theorem offer_offers_le (p q : Line) : s.offers.get q ≤ (offer p s).offers.get q := by
  rw [offer_eq]
  dsimp only
  split
  · rw [PerLine.get_set]
    split
    · rename_i same
      rw [same]
      exact Nat.le_succ _
    · exact Nat.le_refl _
  · exact Nat.le_refl _

/-- R114: an enqueue loses at most its own frame and withdraws no offer. -/
theorem enqueue_lost_offers (p : Line) (e : ServiceEntry) :
    s.CountsOnly (enqueue p e s) (· = lostCounter p e) ∧ ∀ q, s.offers.get q ≤ (enqueue p e s).offers.get q := by
  cases takes : s.serviceTakes p with
  | false =>
    rw [enqueue_lost s p e takes]
    exact ⟨fun id other => Counters.read_add_ne _ 1 other, fun _ => Nat.le_refl _⟩
  | true =>
    rw [enqueue_taken s p e takes]
    refine ⟨.of_eq ?_, offer_offers_le (s.setService p _) p⟩
    rw [offer_eq]
    rfl

/-- R167, R168: a notice event moves at most the lost notices of a line and withdraws no offer. -/
theorem notify_lost_offers (e : NoticeEvent) (t : Time) :
    s.CountsOnly (notify e t s) (fun id => ∃ p, id = .line p .noticeLost) ∧
      ∀ q, s.offers.get q ≤ (notify e t s).offers.get q := by
  cases target : s.active.devpol.target with
  | none =>
    rw [notify_none s e t target]
    exact ⟨.of_eq rfl, fun _ => Nat.le_refl _⟩
  | some g =>
    rw [notify_some s e t g target]
    obtain ⟨lost, offers⟩ := enqueue_lost_offers { s with noticeSeq := s.noticeSeq + 1 } g.line
      { frame := noticeFrame e t g.station { s with noticeSeq := s.noticeSeq + 1 }, sort := .notice,
        builder := .noticeUnit, awaited := false }
    exact ⟨fun id other => lost id fun same => other ⟨g.line, same⟩, offers⟩

theorem offered_le (p q : Line) : s.offers.get q ≤ (s.offered p).get q :=
  (offer_offers_le s p q).trans_eq (by rw [offer_eq]; rfl)

/-! ## The capture slot of a good frame -/

variable (l : Line)

/-- R73: the settling of a slot counts a capture taken and lost notices at most, and withdraws no offer. -/
theorem holdSlot_counts_offers :
    s.CountsOnly (holdSlot l s)
        (fun id => id = .capture .taken ∨ ((s.cls.get l).slot ≠ none ∧ ∃ p, id = .line p .noticeLost)) ∧
      ∀ q, s.offers.get q ≤ (holdSlot l s).offers.get q := by
  cases slot : (s.cls.get l).slot with
  | none =>
    rw [holdSlot_none s l slot]
    exact ⟨.of_eq rfl, fun _ => Nat.le_refl _⟩
  | some k =>
    by_cases filling : ∃ r bs, s.capture.slot k = .filling r bs
    · obtain ⟨r, bs, filling⟩ := filling
      rw [holdSlot_filling s l slot filling]
      obtain ⟨lost, offers⟩ := notify_lost_offers
        { s with capture := s.capture.setSlot k (.held r bs), counters := s.counters.add (.capture .taken) 1 }
        (.captureTaken k) s.timebase
      refine ⟨fun id other => ?_, offers⟩
      obtain ⟨taken, lost'⟩ := not_or.1 other
      rw [lost id fun h => lost' ⟨by simp, h⟩]
      exact Counters.read_add_ne _ 1 taken
    · push Not at filling
      rw [holdSlot_other s l slot filling]
      exact ⟨.of_eq rfl, fun _ => Nat.le_refl _⟩

/-- R73, R165: a FILLING slot becomes HELD and its notice is handed over. -/
theorem holdSlot_takes {k : Fin 4} {r : CaptureRecord} {bs : List Byte} (holds : (s.cls.get l).slot = some k)
    (filling : s.capture.slot k = .filling r bs) :
    (holdSlot l s).capture = s.capture.setSlot k (.held r bs) ∧
      (holdSlot l s).counters.read (.capture .taken) = (s.counters.read (.capture .taken)).add 1 ∧
      s.Notifies (holdSlot l s) (NoticeEvent.captureTaken k).bytes := by
  rw [holdSlot_filling s l holds filling]
  generalize taken : ({ s with
    capture := s.capture.setSlot k (.held r bs), counters := s.counters.add (.capture .taken) 1 } : State) = m
  have capture : m.capture = s.capture.setSlot k (.held r bs) := by rw [← taken]
  have counters : m.counters = s.counters.add (.capture .taken) 1 := by rw [← taken]
  have now : m.timebase = s.timebase := by rw [← taken]
  refine ⟨?_, ?_, ?_⟩
  · obtain ⟨_, _, _, shape⟩ := notify_shape m (.captureTaken k) s.timebase
    rw [shape, ← capture]
  · rw [(notify_lost_offers m (.captureTaken k) s.timebase).1 _ (by simp), counters, Counters.read_add_same]
  · rw [← now]
    refine (notify_notifies m (.captureTaken k)).of_eq ?_ ?_ ?_ now ?_ ?_ ?_ ?_ ?_
    all_goals subst taken
    · rfl
    · rfl
    · rfl
    · rfl
    · exact fun _ => rfl
    · rfl
    · exact fun p => Counters.read_add_ne s.counters (id := .capture .taken) 1 (by simp)
    · exact fun _ => Nat.le_refl _

/-! ## The frame that joins its queue -/

/-- The descriptor that joins the queue: QUEUED, with its entry time and the bytes its cells hold. -/
def Descriptor.queuedAt (d : Descriptor) (now : Time) (bytes : List Byte) : Descriptor :=
  { d with state := .queued, entry := some now, data := bytes.take d.total }

/-- R83: the state once a good passed frame stands at the tail of its class queue and is counted. -/
def State.joined (s : State) (l : Line) (d : Descriptor) (bytes : List Byte) : State :=
  { s.setQueue l.opposite d.cls (s.queue l.opposite d.cls ++ [d.queuedAt s.timebase bytes]) with
    counters := s.counters.add (.egress l.opposite d.cls .accepted) 1 }

variable (d : Descriptor) (bytes : List Byte)

theorem joined_queue :
    (s.joined l d bytes).queue l.opposite d.cls =
      s.queue l.opposite d.cls ++ [d.queuedAt s.timebase bytes] := queue_setQueue_same s _ _ _

theorem joined_queue_ne (q : Line) (k : TrafficClass) (other : (q, k) ≠ (l.opposite, d.cls)) :
    (s.joined l d bytes).queue q k = s.queue q k := queue_setQueue_ne s _ _ _ _ _ other

theorem queueEntry_eq :
    queueEntry l d bytes s =
      if s.queue l.opposite d.cls = [] then newHead l.opposite d.cls (s.joined l d bytes) else s.joined l d bytes := by
  unfold queueEntry
  simp only [List.isEmpty_iff, count_eq]
  rfl

/-- A frame that has just joined is not late under a positive residence limit. -/
theorem overdue_queuedAt (now : Time) (limit : Word) (positive : 0 < limit.toNat) :
    overdue now limit (d.queuedAt now bytes) = false := by
  simp only [overdue, Descriptor.queuedAt, age, BitVec.sub_self, decide_eq_false_iff_not]
  simp only [BitVec.toNat_zero]
  omega

/-- R10, R83, R100, R101: what a frame that joins a queue leaves in each store: alone in its queue it is the
new head. -/
theorem queueEntry_effects
    (stays : s.queue l.opposite d.cls ≠ [] ∨ 0 < (s.classPol l.opposite d.cls).residence.toNat) :
    let t := queueEntry l d bytes s
    let p := l.opposite
    let c := d.cls
    t.queue p c = s.queue p c ++ [d.queuedAt s.timebase bytes] ∧
      (∀ q k, (q, k) ≠ (p, c) → t.queue q k = s.queue q k ∧ t.lane q k = s.lane q k) ∧
      (t.lane p c).history = (s.lane p c).history ∧
      (s.queue p c = [] → t.Evaluated p c) ∧ (s.queue p c ≠ [] → t.pacer = s.pacer) ∧
      t.offers = (if s.queue p c = [] ∧ (t.lane p c).head = .eligible then s.offered p else s.offers) ∧
      (∀ id, t.counters.read id = ((s.counters.read id).add (if id = .egress p c .accepted then 1 else 0)).add
        (if id = .egress p c .windowHolds ∧ s.queue p c = [] ∧ (t.lane p c).head = .held then 1 else 0)) ∧
      t = { s with queues := t.queues, pacer := t.pacer, offers := t.offers, counters := t.counters } := by
  intro t p c
  have counted : ∀ id, (s.joined l d bytes).counters.read id =
      (s.counters.read id).add (if id = .egress p c .accepted then 1 else 0) := fun id => by
    refine (Counters.read_add _ _ _ _).trans ?_
    split <;> simp [Counter.add_zero]
  have entry : t = _ := queueEntry_eq s l d bytes
  by_cases alone : s.queue p c = []
  · rw [if_pos alone] at entry
    have queue : (s.joined l d bytes).queue p c = [d.queuedAt s.timebase bytes] := by
      rw [joined_queue, alone]
      rfl
    have late : overdue (s.joined l d bytes).timebase ((s.joined l d bytes).classPol p c).residence
        (d.queuedAt s.timebase bytes) = false :=
      overdue_queuedAt d bytes s.timebase _ (stays.resolve_left (absurd alone))
    have none : ((s.joined l d bytes).queue p c).takeWhile
        (overdue (s.joined l d bytes).timebase ((s.joined l d bytes).classPol p c).residence) = [] := by
      rw [queue, List.takeWhile_cons_of_neg (ne_true_of_eq_false late)]
    obtain ⟨_, _, _, _, _, shape⟩ := newHead_shape (s.joined l d bytes) p c
    have pool : t.pool = s.pool := by
      rw [entry, newHead_pool, none]
      rfl
    refine ⟨?_, fun q k other => ⟨?_, ?_⟩, ?_, fun _ => ?_, fun n => absurd alone n, ?_, fun id => ?_, ?_⟩
    · rw [entry, newHead_queue, queue, List.dropWhile_cons_of_neg (ne_true_of_eq_false late), alone]
      rfl
    · rw [entry, newHead_queue_ne _ _ _ q k other, joined_queue_ne s l d bytes q k other]
    · rw [entry, newHead_lane_ne _ _ _ q k other]
      rfl
    · rw [entry, newHead_history]
      rfl
    · rw [entry]
      exact newHead_evaluated _ p c
    · simp only [alone, true_and]
      rw [entry, newHead_offers]
      rfl
    · rw [entry, newHead_read, counted, none]
      simp only [alone, true_and, List.length_nil, ite_self, Counter.add_zero]
      rfl
    · rw [← entry] at shape
      rw [shape] at pool ⊢
      dsimp only at pool ⊢
      rw [pool]
      rfl
  · rw [if_neg alone] at entry
    rw [entry]
    refine ⟨joined_queue s l d bytes, fun q k other => ⟨joined_queue_ne s l d bytes q k other, rfl⟩, rfl,
      fun e => absurd e alone, fun _ => rfl, ?_, fun id => ?_, rfl⟩
    · rw [if_neg fun both => alone both.1]
      rfl
    · rw [counted]
      simp [alone, Counter.add_zero]

end

end Sys2Proof.Machine
end

section
/-! SUPPORT. The end of a good passed frame. -/

namespace Sys2Proof.Machine

variable (s : State) (l : Line)

/-- R12: the counters once a frame end is counted as received. -/
theorem countedAtEnd_read (id : CounterId) :
    (s.countedAtEnd l).read id =
      ((s.counters.read id).add (if id = .arrival l .framesReceived then 1 else 0)).add
        (if id = .arrival l .octetsReceived then (s.port.get l).rx.count else 0) := by
  unfold State.countedAtEnd
  rw [Counters.read_add, Counters.read_add]
  split <;> split <;> simp [Counter.add_zero]

/-- A passed frame at its good end, before its descriptor joins the queue: the classifier no longer holds it. -/
def State.handedOver (s : State) (l : Line) : State :=
  (s.ended l (s.port.get l).afterValid).setCls l { s.cls.get l with reservation := none }

theorem handedOver_up (q : Line) : (s.handedOver l).isUp q = s.isUp q := by
  refine isUp_congr ?_
  show ((s.port.set l _).get q).line = _
  rw [PerLine.get_set]
  split
  · rename_i same
    rw [same]
    exact afterValid_line _
  · rfl

theorem handedOver_offered (q : Line) : (s.handedOver l).offered q = s.offered q := by
  unfold State.offered
  rw [handedOver_up]
  rfl

/-- R73, R83: the good end of a passed frame: its descriptor joins the queue and its slot is settled. -/
theorem exec_end_passed {s : State} {d : Descriptor} (awake : s.resetLow = false) (up : (s.port.get l).line = .up)
    (body : (s.port.get l).rx.state = .body) (carrying : (s.cls.get l).state = .carrying)
    (holds : (s.cls.get l).reservation = some d) (unmarked : (s.cls.get l).resetMark = false)
    (good : endVerdict (s.port.get l).rx = .good) :
    exec (.symbolReceived l .endSym) s = .next
      ((holdSlot l (queueEntry l d (s.port.get l).rx.bytes (s.handedOver l))).setCls l Classifier.empty) := by
  have staying : leaveIfJudging l (s.ended l (s.port.get l).afterValid) = s.ended l (s.port.get l).afterValid :=
    if_neg (by simp [State.ended, carrying])
  rw [exec_end l awake up (by simp [body]) (by simp [body]), good,
    classifierEnd_good (s.ended l (s.port.get l).afterValid) l unmarked, staying,
    endUnmarked_queued (s.ended l (s.port.get l).afterValid) l carrying holds]
  rfl

/-- The state once the descriptor of a good passed frame stands in its queue, before its slot is settled. -/
def State.entered (s : State) (l : Line) (d : Descriptor) : State :=
  queueEntry l d (s.port.get l).rx.bytes (s.handedOver l)

/-- R10, R73, R83: what a good passed frame leaves before its slot is settled. -/
theorem entered_effects {s : State} {l : Line} {d : Descriptor}
    (stays : s.queue l.opposite d.cls ≠ [] ∨ 0 < (s.classPol l.opposite d.cls).residence.toNat) :
    let w := s.entered l d
    let p := l.opposite
    let c := d.cls
    (w.queue p c = s.queue p c ++ [d.queuedAt s.timebase (s.port.get l).rx.bytes] ∧
      (w.lane p c).history = (s.lane p c).history ∧
      ∀ q k, (q, k) ≠ (p, c) → w.queue q k = s.queue q k ∧ w.lane q k = s.lane q k) ∧
    ((s.queue p c = [] → w.Evaluated p c) ∧ (s.queue p c ≠ [] → w.pacer = s.pacer)) ∧
    w.offers = (if s.queue p c = [] ∧ (w.lane p c).head = .eligible then s.offered p else s.offers) ∧
    (∀ id, w.counters.read id = ((((s.counters.read id).add
        (if id = .arrival l .framesReceived then 1 else 0)).add
        (if id = .arrival l .octetsReceived then (s.port.get l).rx.count else 0)).add
        (if id = .egress p c .accepted then 1 else 0)).add
        (if id = .egress p c .windowHolds ∧ s.queue p c = [] ∧ (w.lane p c).head = .held then 1 else 0)) ∧
    w = { s with
      port := (s.handedOver l).port, cls := (s.handedOver l).cls, queues := w.queues, pacer := w.pacer
      offers := w.offers, counters := w.counters } := by
  intro w p c
  obtain ⟨queue, others, history, evaluated, paced, offers, read, whole⟩ :=
    queueEntry_effects (s.handedOver l) l d (s.port.get l).rx.bytes stays
  rw [handedOver_offered] at offers
  refine ⟨⟨queue, history, others⟩, ⟨evaluated, paced⟩, offers, fun id => ?_, whole⟩
  refine (read id).trans ?_
  rw [show (s.handedOver l).counters = s.countedAtEnd l from rfl, countedAtEnd_read]
  rfl

theorem handedOver_port :
    ((s.handedOver l).port.get l).rx =
        { (s.port.get l).rx with state := .idle, bytes := (s.port.get l).rx.bytes.take 64 } ∧
      (s.handedOver l).port.get l.opposite = s.port.get l.opposite := by
  refine ⟨?_, PerLine.get_set_opposite _ _ _⟩
  simp [State.handedOver, State.ended]

/-- R165: the slot of a good passed frame that is FILLING becomes HELD, and its notice is handed over. -/
theorem holdSlot_entered {s w : State} {l : Line} {k : Fin 4} {r : CaptureRecord} {bs : List Byte}
    (holds : (w.cls.get l).slot = some k) (filling : s.capture.slot k = .filling r bs)
    (port : w.port = (s.handedOver l).port)
    (whole : w = { s with
      port := w.port, cls := w.cls, queues := w.queues, pacer := w.pacer, offers := w.offers, counters := w.counters })
    (unlost : ∀ p, w.counters.read (.line p .noticeLost) = s.counters.read (.line p .noticeLost))
    (offers : ∀ p, s.offers.get p ≤ w.offers.get p) :
    let t := holdSlot l w
    t.capture.slot k = .held r bs ∧ (∀ j, j ≠ k → t.capture.slot j = s.capture.slot j) ∧
      t.capture.claims = s.capture.claims ∧ s.Notifies t [0x01#8, byteOf k.val, 0x00#8, 0x00#8] ∧
      t.counters.read (.capture .taken) = (w.counters.read (.capture .taken)).add 1 := by
  have capture : w.capture = s.capture := by rw [whole]
  obtain ⟨stored, taken, notifies⟩ := holdSlot_takes w l holds (by rw [capture]; exact filling)
  rw [capture] at stored
  intro t
  rw [show t.capture = s.capture.setSlot k (.held r bs) from stored]
  refine ⟨CaptureStore.slot_setSlot_same _ _ _, fun j other => CaptureStore.slot_setSlot_ne _ _ _ _ other, rfl, ?_,
    taken⟩
  refine notifies.of_eq ?_ ?_ ?_ ?_ ?_ (fun p => ?_) ?_ unlost offers
  case refine_6 => exact (isUp_congr (by rw [port])).trans (handedOver_up s l p)
  all_goals rw [whole] <;> rfl

/-- Settles O15: a good passed frame joins its queue, and the slot it holds is settled. -/
theorem goodFrameEntersQueue : Obligations.GoodFrameEntersQueue := by
  intro l d s awake up body carrying holds unmarked good stays
  refine ⟨_, exec_end_passed l awake up body carrying holds unmarked good, ?_⟩
  obtain ⟨⟨queue, history, others⟩, ⟨evaluated, paced⟩, offers, counted, whole⟩ := entered_effects stays
  unfold State.entered at queue history others evaluated paced offers counted whole
  generalize queueEntry l d (s.port.get l).rx.bytes (s.handedOver l) = w at *
  obtain ⟨rx, oppositePort⟩ := handedOver_port s l
  have port : w.port = (s.handedOver l).port := by rw [whole]
  have slot : (w.cls.get l).slot = (s.cls.get l).slot := by
    rw [whole]
    simp [State.handedOver]
  have unlost : ∀ p, w.counters.read (.line p .noticeLost) = s.counters.read (.line p .noticeLost) := fun p => by
    simp [counted, Counter.add_zero]
  have offersLe : ∀ p, s.offers.get p ≤ w.offers.get p := fun p => by
    rw [offers]
    split
    · exact offered_le s _ p
    · exact Nat.le_refl _
  have untaken : w.counters.read (.capture .taken) = s.counters.read (.capture .taken) := by
    simp [counted, Counter.add_zero]
  obtain ⟨_, _, _, _, _, shape⟩ := holdSlot_shape w l
  obtain ⟨settles, more⟩ := holdSlot_counts_offers w l
  have kept := holdSlot_none w l
  have takes := fun (k : Fin 4) r bs (given : (s.cls.get l).slot = some k) filling =>
    holdSlot_entered (s := s) (r := r) (bs := bs) (slot.trans given) filling port (by rw [whole]) unlost offersLe
  rw [slot] at settles kept
  generalize holdSlot l w = t at *
  have port' : t.port = (s.handedOver l).port := by rw [shape, port]
  have lanes' : ∀ q k, t.lane q k = w.lane q k := fun q k => by rw [shape]; rfl
  have queue' : ∀ q k, t.queue q k = w.queue q k := fun q k => by rw [shape]; rfl
  have reads : ∀ id, id ≠ .capture .taken → (∀ p, id ≠ .line p .noticeLost) →
      t.counters.read id = w.counters.read id := fun id taken lost =>
    settles id fun h => h.elim taken fun ⟨_, p, e⟩ => lost p e
  refine ⟨(queue' _ _).trans queue, PerLine.get_set_same _ _ _, ?_, ?_, ?_, ?_, ?_, ?_,
    (congrArg _ (lanes' _ _)).trans history, ⟨fun alone => ?_, fun joins => ?_, ?_, fun alone eligible isUp free => ?_,
      fun free => ?_⟩,
    fun q k other => ⟨(queue' q k).trans (others q k other).1, (lanes' q k).trans (others q k other).2⟩,
    fun id other => ?_, fun free => ?_, fun k r bs given filling => ?_, ?_, ?_, ?_⟩
  · show (t.port.get l).rx.state = _
    rw [port', rx]
  · show (t.port.get l).rx.count = _
    rw [port', rx]
  · show (t.port.get l).rx.bytes = _
    rw [port', rx]
  · refine (reads _ (by simp) (by simp)).trans ?_
    simp [counted, Counter.add_zero]
  · refine (reads _ (by simp) (by simp)).trans ?_
    simp [counted, Counter.add_zero]
  · refine (reads _ (by simp) (by simp)).trans ?_
    simp [counted, Counter.add_zero]
  · refine (evaluated alone).of_eq (lanes' _ _) (queue' _ _) ?_ ?_ <;> rw [shape] <;> rfl
  · refine Eq.trans ?_ (paced joins)
    rw [shape]
    rfl
  · refine (reads _ (by simp) (by simp)).trans ?_
    rw [counted]
    simp only [reduceCtorEq, if_false, Counter.add_zero, CounterId.egress.injEq, and_false, true_and]
    rw [show (t.setCls l Classifier.empty).lane l.opposite d.cls = w.lane l.opposite d.cls from lanes' _ _]
  · have fresh : w.offers = s.offered l.opposite := by
      rw [offers, if_pos ⟨alone, (congrArg _ (lanes' _ _)).symm.trans eligible⟩]
    refine lt_of_lt_of_le ?_ (more l.opposite)
    rw [fresh]
    simp [State.offered, isUp, free]
  · show t.offers = _
    rw [kept free, offers]
    rfl
  · push Not at other
    obtain ⟨frames, octets, accepted, windows, taken, lost⟩ := other
    refine (settles id fun h => h.elim taken fun ⟨n, p, e⟩ => lost n p e).trans ?_
    rw [counted]
    simp [frames, octets, accepted, windows, Counter.add_zero]
  · obtain rfl := kept free
    refine ⟨?_, ?_, ?_, untaken⟩ <;> rw [whole] <;> rfl
  · obtain ⟨held, same, claims, notifies, taken⟩ := takes k r bs given filling
    exact ⟨held, same, claims, notifies, taken.trans (congrArg (Counter.add · 1) untaken)⟩
  · show t.port.get l.opposite = _
    rw [port', oppositePort]
  · refine (PerLine.get_set_opposite _ _ _).trans ?_
    rw [shape, whole]
    exact PerLine.get_set_opposite _ _ _
  · rw [shape, whole]
    rfl

end Sys2Proof.Machine
end

section
/-! SUPPORT. The completion of a launch (R17, R113, R159). -/

namespace Sys2Proof.Machine

variable (s : State) (p : Line)

theorem exec_completion {s : State} {p : Line} {x : Launch} (awake : s.resetLow = false)
    (launching : (s.tx.get p).launch = some x) : exec (.launchCompletion p) s = .next (completeLaunch p x s) := by
  refine congrArg Host.Outcome.next ((awake_eq s _ awake).trans ?_)
  simp only [launching]

/-- R113: the accounting moves the pool and the counters. -/
theorem account_shape (x : LaunchSource) :
    account p x s = { s with pool := (account p x s).pool, counters := (account p x s).counters } := by
  cases x <;> rfl

theorem account_passed_counters (d : Descriptor) :
    (account p (.passed d) s).counters =
      (s.counters.add (.egress p d.cls .launchedFrames) 1).add (.egress p d.cls .launchedOctets) d.total := rfl

/-- R113: the accounting reads no transmitter. -/
theorem account_setTx (x : LaunchSource) (t : Transmitter) :
    account p x (s.setTx p t) = (account p x s).setTx p t := by
  cases x <;> rfl

/-- R17: a completed launch frees the transmitter, is accounted, and offers a decision. -/
theorem completeLaunch_eq {x : Launch} (up : s.isUp p = true) (other : x.source.awaited = false) :
    completeLaunch p x s =
      { s with
        tx := s.tx.set p { launch := none, close := .ended }
        offers := s.offers.set p (s.offers.get p + 1)
        pool := (account p x.source s).pool, counters := (account p x.source s).counters } := by
  unfold completeLaunch
  rw [account_setTx, account_shape]
  dsimp only
  rw [if_neg (by simp [other]), offer_up _ (by exact up)]
  have free : (State.setTx { s with pool := (account p x.source s).pool, counters := (account p x.source s).counters } p
      { launch := none, close := .ended }).txFree p = true := by simp [State.txFree]
  rw [if_pos free]
  rfl

/-- R159, R160: the completion of the awaited reply is a FULL reset that cuts the other line's launch. -/
theorem completeLaunch_awaited {x : Launch} (awake : s.resetLow = false) (awaits : x.source.awaited = true) :
    completeLaunch p x s =
      { State.powerOn s.straps with
        tx := ({ n := s.tx.n.cut, s := s.tx.s.cut } : PerLine Transmitter).set p { launch := none, close := .ended }
        choices := s.choices, pending := s.pending } := by
  have cut : ({ n := (s.tx.set p { launch := none, close := .ended }).n.cut
                s := (s.tx.set p { launch := none, close := .ended }).s.cut } : PerLine Transmitter) =
      ({ n := s.tx.n.cut, s := s.tx.s.cut } : PerLine Transmitter).set p { launch := none, close := .ended } := by
    cases p <;> rfl
  unfold completeLaunch
  rw [account_setTx, account_shape, offer_eq]
  dsimp only
  rw [if_pos awaits]
  refine Eq.trans ?_ (congrArg (fun tx => ({ State.powerOn s.straps with
    tx := tx, choices := s.choices, pending := s.pending } : State)) cut)
  unfold fullReset powerOnFrom
  show ({ State.powerOn s.straps with resetLow := s.resetLow, tx := _, choices := _, pending := _ } : State) = _
  rw [awake]
  rfl

/-- Settles O23: the accounting of a completed launch, and the FULL reset at the completion of its reply. -/
theorem completedLaunchIsAccounted : Obligations.CompletedLaunchIsAccounted := by
  refine ⟨fun p x s awake up launching other => ?_, fun p x s awake launching awaits => ?_⟩
  · refine ⟨_, exec_completion awake launching, ?_⟩
    rw [completeLaunch_eq s p up other]
    refine ⟨by simp [State.txFree], rfl, PerLine.get_set_opposite _ _ _, fun d passed => ?_, fun e service => ?_,
      fun cadence => ?_, rfl⟩
    · simp only [passed]
      refine ⟨rfl, rfl, rfl, ?_, ?_, fun id moved => ?_⟩
      · rw [account_passed_counters, Counters.read_add_ne _ _ (by simp), Counters.read_add_same]
      · rw [account_passed_counters, Counters.read_add_same, Counters.read_add_ne _ _ (by simp)]
      · obtain ⟨frames, octets⟩ := not_or.1 moved
        dsimp only
        rw [account_passed_counters, Counters.read_add_ne _ _ octets, Counters.read_add_ne _ _ frames]
    · simp only [service]
      exact ⟨rfl, rfl⟩
    · simp only [cadence]
      exact ⟨rfl, rfl⟩
  · rw [exec_completion awake launching, completeLaunch_awaited s p awake awaits]

end Sys2Proof.Machine
end

section
/-! SUPPORT. The arbiter's scan of the class heads (R99, R101, R110): the heads it passes over, and the one it
launches. -/

namespace Sys2Proof.Machine

/-! ## The evaluation of one head at a decision -/

section

variable (s : State) (p : Line) (c : TrafficClass)

theorem evaluateAtDecision_eq : evaluateAtDecision p c s = recordHead p c (s.AllowsDecision p c) s := by
  rw [← openAtDecision_eq]
  rfl

/-- The scan at one class: an empty queue is left, a head is evaluated. -/
def State.passedOver (p : Line) (s : State) (c : TrafficClass) : State :=
  if s.queue p c = [] then s else evaluateAtDecision p c s

theorem passedOver_shape : ∃ pa ct, s.passedOver p c = { s with pacer := pa, counters := ct } := by
  unfold State.passedOver
  split
  · exact ⟨_, _, rfl⟩
  · rw [evaluateAtDecision_eq]
    exact recordHead_shape s p c _

theorem passedOver_queue (k : TrafficClass) : (s.passedOver p c).queue p k = s.queue p k := by
  obtain ⟨_, _, shape⟩ := passedOver_shape s p c
  rw [shape]
  rfl

theorem passedOver_lane_ne {k : TrafficClass} (other : k ≠ c) : (s.passedOver p c).lane p k = s.lane p k := by
  unfold State.passedOver
  split
  · rfl
  · rw [evaluateAtDecision_eq]
    exact (recordHead_lane s p c _).2 p k (by simp [other])

/-- What a decision finds of a head is not touched by the heads before it. -/
theorem passedOver_allows {k : TrafficClass} (other : k ≠ c) :
    (s.passedOver p c).AllowsDecision p k = s.AllowsDecision p k := by
  have lane := passedOver_lane_ne s p c other
  obtain ⟨_, _, shape⟩ := passedOver_shape s p c
  have pol : (s.passedOver p c).classPol p k = s.classPol p k := by rw [shape]; rfl
  have now : (s.passedOver p c).timebase = s.timebase := by rw [shape]
  unfold State.AllowsDecision State.Allows
  rw [lane, pol, now]

/-- R101: a head that its window does not allow is held, and the hold counted. -/
theorem passedOver_held (queued : s.queue p c ≠ []) (closed : s.AllowsDecision p c = false) :
    (s.passedOver p c).lane p c =
        { s.lane p c with
          head := .held, release := some (releaseTime s.timebase (s.lane p c).history (s.classPol p c)) } ∧
      ∀ id, (s.passedOver p c).counters.read id = (s.counters.read id).add
        (if id = .egress p c .windowHolds ∧ (s.lane p c).head ≠ .held then 1 else 0) := by
  have lane : (s.passedOver p c).lane p c = { s.lane p c with
      head := .held, release := some (releaseTime s.timebase (s.lane p c).history (s.classPol p c)) } := by
    unfold State.passedOver
    rw [if_neg queued, evaluateAtDecision_eq, closed, (recordHead_lane s p c false).1]
    simp [queued]
  refine ⟨lane, fun id => ?_⟩
  have read := recordHead_read s p c false id
  rw [← closed, ← evaluateAtDecision_eq] at read
  unfold State.passedOver at lane ⊢
  rw [if_neg queued] at lane ⊢
  rw [read, lane]
  simp

theorem passedOver_empty (empty : s.queue p c = []) : s.passedOver p c = s := if_pos empty

/-! ## The scan -/

theorem scanHeads_empty (cs : List TrafficClass) (empty : s.queue p c = []) :
    scanHeads p (c :: cs) s = scanHeads p cs s := by
  rw [scanHeads, empty]

theorem scanHeads_closed (cs : List TrafficClass) (queued : s.queue p c ≠ []) (closed : s.AllowsDecision p c = false) :
    scanHeads p (c :: cs) s = scanHeads p cs (evaluateAtDecision p c s) := by
  have held := (passedOver_held s p c queued closed).1
  unfold State.passedOver at held
  rw [if_neg queued] at held
  obtain ⟨d, rest, queue⟩ := List.exists_cons_of_ne_nil queued
  rw [scanHeads, queue]
  dsimp only
  rw [held]
  rfl

theorem scanHeads_open (cs : List TrafficClass) {d : Descriptor} {rest : List Descriptor}
    (queue : s.queue p c = d :: rest) (allowed : s.AllowsDecision p c = true) :
    scanHeads p (c :: cs) s = launchHead p c d rest (evaluateAtDecision p c s) := by
  have eligible : ((evaluateAtDecision p c s).lane p c).head = .eligible := by
    rw [evaluateAtDecision_eq, allowed, (recordHead_lane s p c true).1]
    simp [queue]
  rw [scanHeads, queue]
  dsimp only
  rw [if_pos eligible]

end

/-- No class of a list has a head that its window allows. -/
def State.Closed (s : State) (p : Line) (cs : List TrafficClass) : Prop :=
  ∀ c ∈ cs, s.queue p c = [] ∨ s.AllowsDecision p c = false

theorem closed_passedOver {s : State} {p : Line} {c : TrafficClass} {cs : List TrafficClass} (fresh : c ∉ cs)
    (closed : s.Closed p (c :: cs)) : (s.passedOver p c).Closed p cs := by
  intro k inside
  have other : k ≠ c := fun e => fresh (e ▸ inside)
  rw [passedOver_queue, passedOver_allows s p c other]
  exact closed k (List.mem_cons_of_mem _ inside)

/-- The scan goes past the closed heads to the classes behind them. -/
theorem scanHeads_passes (p : Line) (later : List TrafficClass) (cs : List TrafficClass) (once : cs.Nodup) :
    ∀ s : State, s.Closed p cs → scanHeads p (cs ++ later) s = scanHeads p later (cs.foldl (State.passedOver p) s) := by
  induction cs with
  | nil => exact fun _ _ => rfl
  | cons c cs ih =>
    intro s closed
    obtain ⟨fresh, once⟩ := List.nodup_cons.1 once
    rw [List.foldl_cons, ← ih once _ (closed_passedOver fresh closed), List.cons_append]
    by_cases empty : s.queue p c = []
    · rw [scanHeads_empty s p c _ empty, passedOver_empty s p c empty]
    · rw [scanHeads_closed s p c _ empty ((closed c (by simp)).resolve_left empty)]
      unfold State.passedOver
      rw [if_neg empty]

/-- R99, R101: the closed heads passed over are held, each hold counted once, and nothing else moves. -/
theorem passedOver_all (p : Line) (cs : List TrafficClass) (once : cs.Nodup) : ∀ s : State, s.Closed p cs →
    let t := cs.foldl (State.passedOver p) s
    (∀ c ∈ cs, s.queue p c ≠ [] → t.lane p c =
        { s.lane p c with
          head := .held, release := some (releaseTime s.timebase (s.lane p c).history (s.classPol p c)) } ∧
      t.counters.read (.egress p c .windowHolds) =
        (s.counters.read (.egress p c .windowHolds)).add (if (s.lane p c).head = .held then 0 else 1)) ∧
    (∀ c, c ∉ cs ∨ s.queue p c = [] → t.lane p c = s.lane p c ∧
      t.counters.read (.egress p c .windowHolds) = s.counters.read (.egress p c .windowHolds)) ∧
    s.CountsOnly t (fun id => ∃ c ∈ cs, id = .egress p c .windowHolds) ∧
    ∃ pa ct, t = { s with pacer := pa, counters := ct } := by
  induction cs with
  | nil => exact fun s _ => ⟨nofun, fun c _ => ⟨rfl, rfl⟩, .of_eq rfl, _, _, rfl⟩
  | cons c cs ih =>
    intro s closed
    obtain ⟨fresh, once⟩ := List.nodup_cons.1 once
    obtain ⟨held, left, counts, pa, ct, shape⟩ := ih once _ (closed_passedOver fresh closed)
    obtain ⟨pa', ct', first⟩ := passedOver_shape s p c
    rw [List.foldl_cons]
    generalize cs.foldl (State.passedOver p) (s.passedOver p c) = t at *
    have read : ∀ k, k ≠ c → (s.passedOver p c).counters.read (.egress p k .windowHolds) =
        s.counters.read (.egress p k .windowHolds) := fun k other => by
      by_cases empty : s.queue p c = []
      · rw [passedOver_empty s p c empty]
      · rw [(passedOver_held s p c empty ((closed c (by simp)).resolve_left empty)).2]
        simp [other, Counter.add_zero]
    have now : (s.passedOver p c).timebase = s.timebase := by rw [first]
    have pol : ∀ k, (s.passedOver p c).classPol p k = s.classPol p k := fun k => by rw [first]; rfl
    obtain ⟨ownLane, ownRead⟩ := left c (.inl fresh)
    refine ⟨fun k inside queued => ?_, fun k outside => ?_, fun id other => ?_, pa, ct, ?_⟩
    · by_cases same : k = c
      · subst same
        obtain ⟨lane, reads⟩ := passedOver_held s p k queued ((closed k (by simp)).resolve_left queued)
        rw [ownLane, ownRead, lane, reads]
        simp
      · have later := (List.mem_cons.1 inside).resolve_left same
        obtain ⟨lane, reads⟩ := held k later (by rwa [passedOver_queue])
        rw [passedOver_lane_ne s p c same, now, pol] at lane
        rw [passedOver_lane_ne s p c same, read k same] at reads
        exact ⟨lane, reads⟩
    · by_cases same : k = c
      · subst same
        have empty := outside.resolve_left (by simp)
        rw [ownLane, ownRead, passedOver_empty s p k empty]
        exact ⟨rfl, rfl⟩
      · obtain ⟨lane, reads⟩ := left k (by simpa [passedOver_queue, same] using outside)
        rw [lane, reads, passedOver_lane_ne s p c same, read k same]
        exact ⟨rfl, rfl⟩
    · rw [counts id fun ⟨k, inside, e⟩ => other ⟨k, List.mem_cons_of_mem _ inside, e⟩]
      by_cases empty : s.queue p c = []
      · rw [passedOver_empty s p c empty]
      · rw [(passedOver_held s p c empty ((closed c (by simp)).resolve_left empty)).2,
          if_neg fun found => other ⟨c, List.mem_cons_self .., found.1⟩, Counter.add_zero]
    · rw [shape, first]

/-- The classes that a scan looks at before class `c`. -/
def classesAbove (c : TrafficClass) : List TrafficClass := classesDown.takeWhile (c < ·)

theorem classesAbove_split (c : TrafficClass) : ∃ later, classesDown = classesAbove c ++ c :: later := by
  have split : ∀ c, classesDown = classesAbove c ++ c :: (classesDown.dropWhile (c < ·)).tail := by decide
  exact ⟨_, split c⟩

theorem mem_classesAbove (c k : TrafficClass) : k ∈ classesAbove c ↔ c < k := by revert c k; decide

theorem classesAbove_nodup (c : TrafficClass) : (classesAbove c).Nodup := by revert c; decide

/-! ## The launch of a head -/

section

variable (s : State) (p : Line) (c : TrafficClass)

/-- A head found open is ELIGIBLE, and that is recorded in its lane alone. -/
theorem evaluateAtDecision_open (queued : s.queue p c ≠ []) (allowed : s.AllowsDecision p c = true) :
    evaluateAtDecision p c s = s.setLane p c { s.lane p c with head := .eligible, release := none } := by
  rw [evaluateAtDecision_eq, allowed, recordHead_allowed s p c queued]

/-- The launch of a head, before the head behind it is checked and evaluated. -/
def State.launching (s : State) (p : Line) (c : TrafficClass) (d : Descriptor) (rest : List Descriptor) : State :=
  { (s.setQueue p c rest).setLane p c
      { s.lane p c with history := appendHistory (s.lane p c).history s.timebase } with
    tx := s.tx.set p
      { s.tx.get p with
        launch := some
          { start := s.timebase, bytes := passedBytes d, source := .passed { d with state := .launching } } } }

theorem launchHead_eq (d : Descriptor) (rest : List Descriptor) :
    launchHead p c d rest s = newHead p c (s.launching p c d rest) := rfl

theorem launching_queue (d : Descriptor) (rest : List Descriptor) : (s.launching p c d rest).queue p c = rest :=
  queue_setQueue_same s p c rest

theorem launching_queue_ne (d : Descriptor) (rest : List Descriptor) {k : TrafficClass} (other : k ≠ c) :
    (s.launching p c d rest).queue p k = s.queue p k := queue_setQueue_ne s p p c k rest (by simp [other])

theorem launching_history (d : Descriptor) (rest : List Descriptor) :
    ((s.launching p c d rest).lane p c).history = appendHistory (s.lane p c).history s.timebase :=
  congrArg PacerLane.history (lane_setLane_same (s.setQueue p c rest) p c _)

theorem launching_lane_ne (d : Descriptor) (rest : List Descriptor) {k : TrafficClass} (other : k ≠ c) :
    (s.launching p c d rest).lane p k = s.lane p k :=
  lane_setLane_ne (s.setQueue p c rest) p p c k _ (by simp [other])

end

/-- A new head leaves the transmitters. -/
theorem newHead_tx (s : State) (p : Line) (c : TrafficClass) : (newHead p c s).tx = s.tx := by
  obtain ⟨_, _, _, _, _, shape⟩ := newHead_shape s p c
  rw [shape]

theorem exec_decision {s : State} {p : Line} (may : s.MayDecide p) :
    exec (.egressDecision p) s = .next (decideOffer p s) := by
  obtain ⟨awake, up, free, offers⟩ := may
  refine congrArg Host.Outcome.next ((awake_eq s _ awake).trans (if_pos ?_))
  simp [up, free, offers]

/-- R110: with no cadence frame and no service frame before them, the heads are scanned. -/
theorem arbitrate_heads {s : State} {p : Line} (none : s.NoEarlierCandidate p) :
    arbitrate p s = scanHeads p classesDown s := by
  obtain ⟨unforced, service⟩ := none
  unfold arbitrate
  rw [service]
  split
  · rename_i forced owed
    rcases unforced with h | h <;> simp_all
  · rfl

/-- R110, R111: the decision that launches the head of class `c` after passing over the classes above it. -/
theorem decideOffer_launch {s : State} {p : Line} {c : TrafficClass} {d : Descriptor} {rest : List Descriptor}
    (none : s.NoEarlierCandidate p) (queue : s.queue p c = d :: rest) (allowed : s.AllowsDecision p c = true)
    (above : ∀ k > c, s.queue p k = [] ∨ s.AllowsDecision p k = false) :
    decideOffer p s = (newHead p c ((evaluateAtDecision p c
      ((classesAbove c).foldl (State.passedOver p) s)).launching p c d rest)).setOffers p 0 := by
  have closed : s.Closed p (classesAbove c) := fun k inside => above k ((mem_classesAbove c k).1 inside)
  have self : c ∉ classesAbove c := fun inside => lt_irrefl c ((mem_classesAbove c c).1 inside)
  obtain ⟨later, split⟩ := classesAbove_split c
  obtain ⟨-, left, -, pa, ct, shape⟩ := passedOver_all p (classesAbove c) (classesAbove_nodup c) s closed
  have lane := (left c (.inl self)).1
  have launched : arbitrate p s = newHead p c ((evaluateAtDecision p c
      ((classesAbove c).foldl (State.passedOver p) s)).launching p c d rest) := by
    rw [arbitrate_heads none, split, scanHeads_passes p _ _ (classesAbove_nodup c) s closed,
      scanHeads_open _ p c later (d := d) (rest := rest), launchHead_eq]
    · rw [shape]
      exact queue
    · rw [← allowed]
      unfold State.AllowsDecision State.Allows
      rw [lane, shape]
      rfl
  have busy : (arbitrate p s).txFree p = false := by
    rw [launched]
    unfold State.txFree
    rw [newHead_tx]
    simp [State.launching]
  unfold decideOffer
  dsimp only
  rw [busy, launched]
  rfl

end Sys2Proof.Machine
end

section
/-! SUPPORT. The launch of the highest allowed head, and the bytes of a passed frame as launched (R99, R110,
Table 1-7). -/

namespace Sys2Proof.Machine

/-- The state at the launch of the head of class `c`: the heads above it passed over, it found open and taken off its
queue. -/
def State.headTaken (s : State) (p : Line) (c : TrafficClass) (d : Descriptor) (rest : List Descriptor) : State :=
  (evaluateAtDecision p c ((classesAbove c).foldl (State.passedOver p) s)).launching p c d rest

/-- What stands at the launch of the head of class `c`: its own lane but for the launch start, the lanes above it, and
the counters. -/
theorem headTaken_effects {s : State} {p : Line} {c : TrafficClass} {d : Descriptor} {rest : List Descriptor}
    (queue : s.queue p c = d :: rest) (allowed : s.AllowsDecision p c = true)
    (closed : s.Closed p (classesAbove c)) :
    let m := s.headTaken p c d rest
    (m.queue p c = rest ∧ ∀ k, k ≠ c → m.queue p k = s.queue p k) ∧
      (m.lane p c).history = appendHistory (s.lane p c).history s.timebase ∧
      (∀ k, k ≠ c → m.lane p k = ((classesAbove c).foldl (State.passedOver p) s).lane p k) ∧
      m.counters = ((classesAbove c).foldl (State.passedOver p) s).counters ∧
      m.tx = s.tx.set p
        { s.tx.get p with
          launch := some
            { start := s.timebase, bytes := passedBytes d, source := .passed { d with state := .launching } } } ∧
      m = { s with queues := m.queues, pacer := m.pacer, tx := m.tx, counters := m.counters } := by
  have self : c ∉ classesAbove c := fun inside => lt_irrefl c ((mem_classesAbove c c).1 inside)
  obtain ⟨-, left, -, pa, ct, shape⟩ := passedOver_all p (classesAbove c) (classesAbove_nodup c) s closed
  have lane := (left c (.inl self)).1
  unfold State.headTaken
  generalize (classesAbove c).foldl (State.passedOver p) s = u at *
  have queues : ∀ k, u.queue p k = s.queue p k := fun k => by rw [shape]; rfl
  have found : u.AllowsDecision p c = true := by
    rw [← allowed]
    unfold State.AllowsDecision State.Allows
    rw [lane, shape]
    rfl
  rw [evaluateAtDecision_open u p c (by rw [queues, queue]; simp) found]
  refine ⟨⟨launching_queue _ p c d rest, fun k other => ?_⟩, ?_, fun k other => ?_, rfl, ?_, ?_⟩
  · rw [launching_queue_ne _ p c d rest other]
    exact queues k
  · rw [launching_history, lane_setLane_same, lane, shape]
    rfl
  · rw [launching_lane_ne _ p c d rest other, lane_setLane_ne u p p c k _ (by simp [other])]
  · rw [shape]
    rfl
  · rw [shape]
    rfl

/-! ## The bytes launched -/

theorem byteAt_append_left {bs cs : List Byte} {i : Nat} (inside : i < bs.length) :
    byteAt (bs ++ cs) i = byteAt bs i := List.getD_append _ _ _ _ inside

theorem byteAt_append_right {bs cs : List Byte} {i : Nat} (outside : bs.length ≤ i) :
    byteAt (bs ++ cs) i = byteAt cs (i - bs.length) := List.getD_append_right _ _ _ _ outside

theorem byteAt_take {bs : List Byte} {n i : Nat} (inside : i < n) : byteAt (bs.take n) i = byteAt bs i := by
  simp [byteAt, List.getD, List.getElem?_take_of_lt inside]

theorem wordAt_withCheck (bs : List Byte) : wordAt (withCheck bs) bs.length = checkWord bs := by
  have at_offset : ∀ i, byteAt (withCheck bs) (bs.length + i) = byteAt (bytes32 (checkWord bs)) i := fun i => by
    refine (byteAt_append_right (Nat.le_add_right _ _)).trans ?_
    rw [Nat.add_sub_cancel_left]
  have first := at_offset 0
  rw [Nat.add_zero] at first
  unfold wordAt
  rw [first, at_offset 1, at_offset 2, at_offset 3]
  exact be32_bytes _

/-- Table 1-7: the bytes of a passed frame as launched. -/
theorem passedBytes_spec (d : Descriptor) (long : 20 ≤ d.total) (whole : d.data.length = d.total) :
    (passedBytes d).length = d.total ∧ byteAt (passedBytes d) 9 = byteAt d.data 9 - 1 ∧
      (∀ i < d.total - 4, i ≠ 9 → byteAt (passedBytes d) i = byteAt d.data i) ∧
      wordAt (passedBytes d) (d.total - 4) = checkWord ((passedBytes d).take (d.total - 4)) := by
  unfold passedBytes
  dsimp only
  generalize hbody : (d.data.take (d.total - 4)).set 9 (byteAt (d.data.take (d.total - 4)) 9 - 1) = body
  have length : body.length = d.total - 4 := by
    rw [← hbody]
    simp [whole]
  have kept : ∀ i < d.total - 4, byteAt (withCheck body) i = byteAt body i := fun i inside =>
    byteAt_append_left (by omega)
  refine ⟨?_, ?_, fun i inside other => ?_, ?_⟩
  · simp [withCheck, bytes32, length]
    omega
  · rw [kept 9 (by omega), ← hbody, byteAt_take (by omega)]
    simp [byteAt, whole, show 9 < d.total - 4 by omega]
  · rw [kept i inside, ← hbody]
    refine Eq.trans ?_ (byteAt_take (bs := d.data) inside)
    simp [byteAt, List.getElem?_set_ne (Ne.symm other)]
  · have front : (withCheck body).take (d.total - 4) = body := by
      rw [← length]
      exact List.take_left
    rw [front, ← length, wordAt_withCheck]

/-- Settles O20: the head of the highest class that its window allows is launched. -/
theorem highestAllowedHeadIsLaunched : Obligations.HighestAllowedHeadIsLaunched := by
  refine ⟨fun p c d rest s may none queue allowed above => ?_, passedBytes_spec⟩
  have run := (exec_decision may).trans (congrArg _ (decideOffer_launch none queue allowed above))
  have reach := decideOffer_reach s p
  rw [decideOffer_launch none queue allowed above] at reach
  have closed : s.Closed p (classesAbove c) := fun k inside => above k ((mem_classesAbove c k).1 inside)
  obtain ⟨held, left, counts, -⟩ := passedOver_all p (classesAbove c) (classesAbove_nodup c) s closed
  obtain ⟨⟨restQueue, queues⟩, history, lanes, counters, tx, shape⟩ := headTaken_effects queue allowed closed
  unfold State.headTaken at restQueue queues history lanes counters tx shape
  generalize (evaluateAtDecision p c ((classesAbove c).foldl (State.passedOver p) s)).launching p c d rest = m at *
  generalize (classesAbove c).foldl (State.passedOver p) s = u at *
  obtain ⟨_, _, _, _, _, newShape⟩ := newHead_shape m p c
  have now : m.timebase = s.timebase := by rw [shape]
  have pol : m.classPol p c = s.classPol p c := by rw [shape]; rfl
  have startPool : m.pool = s.pool := by rw [shape]
  have pool := newHead_pool m p c
  have read := newHead_read m p c
  have queue' := newHead_queue m p c
  rw [restQueue, now, pol] at pool read queue'
  rw [startPool] at pool
  have windows : ∀ k, k ≠ c → (newHead p c m).counters.read (.egress p k .windowHolds) =
      u.counters.read (.egress p k .windowHolds) := fun k other => by
    rw [read, counters]
    simp [other, Counter.add_zero]
  have lanes' : ∀ k, k ≠ c → (newHead p c m).lane p k = u.lane p k := fun k other =>
    (newHead_lane_ne m p c p k (by simp [other])).trans (lanes k other)
  have own := left c (.inl fun inside => lt_irrefl c ((mem_classesAbove c c).1 inside))
  obtain ⟨free, used, rearms⟩ := Pool.Returned.giveAll p
    (rest.takeWhile (overdue s.timebase (s.classPol p c).residence)) s.pool
  refine ⟨_, run, ?_, ?_, newHead_evaluated m p c, ?_, fun k higher queued => ?_, fun k lower => ?_, queue',
    fun k other => ?_, reach.tx, reach.queues, reach.pacer, PerLine.get_set_same _ _ _, fun id other => ?_, ?_, ?_,
    fun inTime => ?_, ?_⟩
  · show ((newHead p c m).tx.get p).launch = _
    rw [newHead_tx, tx, PerLine.get_set_same]
  · exact (newHead_history m p c).trans history
  · refine (read _).trans ?_
    rw [counters, own.2]
    simp only [reduceCtorEq, CounterId.egress.injEq, and_false, if_false, Counter.add_zero, true_and]
    rfl
  · obtain ⟨lane, reads⟩ := held k ((mem_classesAbove c k).2 higher) queued
    exact ⟨(lanes' k (ne_of_gt higher)).trans lane, (windows k (ne_of_gt higher)).trans reads⟩
  · have other : k ≠ c := lower.elim ne_of_lt fun h => ne_of_gt h.1
    obtain ⟨lane, reads⟩ := left k (lower.imp
      (fun h inside => absurd ((mem_classesAbove c k).1 inside) (not_lt_of_gt h)) fun h => h.2)
    exact ⟨(lanes' k other).trans lane, (windows k other).trans reads⟩
  · exact (newHead_queue_ne m p c p k (by simp [other])).trans (queues k other)
  · obtain ⟨residence, holds⟩ := not_or.1 other
    refine (read id).trans ?_
    rw [counters, counts id fun ⟨k, _, e⟩ => holds ⟨k, e⟩, if_neg residence,
      if_neg fun found => holds ⟨c, found.1⟩, Counter.add_zero, Counter.add_zero]
  · refine (read _).trans ?_
    rw [counters, counts _ (by simp)]
    simp [Counter.add_zero]
  · rw [← pool] at free used rearms
    exact ⟨free, used, rearms⟩
  · have noneLate : rest.takeWhile (overdue s.timebase (s.classPol p c).residence) = [] := by
      cases rest with
      | nil => rfl
      | cons e es => exact List.takeWhile_cons_of_neg (by simp [inTime e])
    show (newHead p c m).pool = _
    rw [pool, noneLate]
    rfl
  · rw [newShape, shape]
    rfl

end Sys2Proof.Machine
end

section
/-! SUPPORT. The grant test, and inspection complete at the 64th byte and at an early END: what the inspection reads of
the ports is their lines and the frame inspected. -/

namespace Sys2Proof.Machine

/-- R78: the two conditions of a grant. -/
theorem grantTest_iff (p : Pool) (d : DevPol) (e : Line) (k : Nat) :
    grantTest p d e k = true ↔
      k ≤ p.free ∧
        ((p.used.get e + k : Int) ≤ (d.reserve.get e).toNat ∨
          max ((d.reserve.get e.opposite).toNat - p.used.get e.opposite : Int) 0 ≤ (p.free : Int) - k) := by
  unfold grantTest unusedReserve
  simp only [Bool.and_eq_true, Bool.or_eq_true, decide_eq_true_eq]
  omega

/-! ## What an inspection reads of the ports -/

section

variable {s : State} {po : PerLine LinePort} (lines : ∀ p, (po.get p).line = (s.port.get p).line)

include lines

theorem offer_ports (p : Line) : offer p { s with port := po } = { offer p s with port := po } := by
  have up : State.isUp { s with port := po } p = s.isUp p := isUp_congr (lines p)
  rw [offer_eq, offer_eq, up]
  rfl

theorem enqueue_ports (p : Line) (e : ServiceEntry) :
    enqueue p e { s with port := po } = { enqueue p e s with port := po } := by
  have takes : State.serviceTakes { s with port := po } p = s.serviceTakes p := by
    unfold State.serviceTakes
    rw [isUp_congr (s := s) (lines p)]
  cases room : s.serviceTakes p with
  | false =>
    rw [enqueue_lost s p e room, enqueue_lost _ p e (takes.trans room)]
    rfl
  | true =>
    rw [enqueue_taken s p e room, enqueue_taken _ p e (takes.trans room)]
    exact offer_ports (s := s.setService p _) lines p

theorem notify_ports (e : NoticeEvent) (t : Time) :
    notify e t { s with port := po } = { notify e t s with port := po } := by
  cases target : s.active.devpol.target with
  | none =>
    rw [notify_none s e t target, notify_none { s with port := po } e t target]
  | some g =>
    rw [notify_some s e t g target, notify_some { s with port := po } e t g target]
    exact enqueue_ports (s := { s with noticeSeq := s.noticeSeq + 1 }) lines g.line _

variable (l : Line)

theorem reserve_ports (c : TrafficClass) (total : Nat) :
    reserve l c total { s with port := po } = { reserve l c total s with port := po } := by
  by_cases above : (s.classPol l.opposite c).cellLimit.toNat < s.occupancy l.opposite c + cellsFor total
  · rw [reserve_queueLimit s l c total above, reserve_queueLimit { s with port := po } l c total above]
  · have within := Nat.le_of_not_lt above
    cases granted : grantTest s.pool s.active.devpol l.opposite (cellsFor total) with
    | true =>
      rw [reserve_granted s l c total within granted, reserve_granted { s with port := po } l c total within granted]
    | false =>
      rw [reserve_refused s l c total within granted, reserve_refused { s with port := po } l c total within granted]
      dsimp only
      split
      · exact notify_ports (s := s.refused l c) lines _ _
      · rfl

theorem applyJudgement_ports (f : HeaderFacts) (j : Judgement) (decided : j.outcome.Decided) :
    applyJudgement l f j { s with port := po } = { applyJudgement l f j s with port := po } := by
  rcases decided with ⟨c, pass⟩ | ⟨r, drop, counts⟩
  · rw [applyJudgement_pass s l f j pass, applyJudgement_pass { s with port := po } l f j pass]
    exact reserve_ports (s := s.judged l j) lines l c _
  · obtain ⟨k, counts⟩ := Option.isSome_iff_exists.1 counts
    rw [applyJudgement_drop s l f j drop counts, applyJudgement_drop { s with port := po } l f j drop counts]
    rfl

omit lines in
theorem requestCapture_ports (tr : Trigger) (total : Nat) (window : List Byte) :
    requestCapture l tr total window { s with port := po } =
      { requestCapture l tr total window s with port := po } := by
  cases given : s.capture.choose s.active.devpol.captureMode with
  | none =>
    rw [requestCapture_missed s l tr total window given,
      requestCapture_missed { s with port := po } l tr total window given]
  | some k =>
    rw [requestCapture_given s l tr total window given,
      requestCapture_given { s with port := po } l tr total window given]

theorem inspectPending_ports (f : HeaderFacts) (window : List Byte) :
    inspectPending l f window { s with port := po } = { inspectPending l f window s with port := po } := by
  unfold inspectPending
  dsimp only
  have bank : State.store { s with port := po } = s.store := rfl
  rw [applyJudgement_ports lines l f _ (judge_decided _ l f window)]
  split
  · exact requestCapture_ports (s := applyJudgement l f _ s) l _ _ window
  · rfl

theorem classifierInspect_ports (window : List Byte) :
    classifierInspect l window { s with port := po } = { classifierInspect l window s with port := po } := by
  unfold classifierInspect
  dsimp only
  rw [leaveClassification_eq, leaveClassification_eq]
  split
  · rfl
  · rw [inspectPending_ports lines l _ window]
    rfl
  · rfl

end

variable (s : State) (l : Line)

/-- The classifier leaves the ports. -/
theorem classifierInspect_port (window : List Byte) : (classifierInspect l window s).port = s.port := by
  have same : classifierInspect l window s = { classifierInspect l window s with port := s.port } :=
    classifierInspect_ports (s := s) (po := s.port) (fun _ => rfl) l window
  rw [same]

theorem inspectionComplete_resetLow : (inspectionComplete l s).resetLow = s.resetLow := by
  have pending : ∀ f window, (inspectPending l f window s).resetLow = s.resetLow := fun f window => by
    unfold inspectPending
    dsimp only
    obtain ⟨_, _, _, _, _, _, applied⟩ := applyJudgement_shape s l f _ (judge_decided _ l f window)
    split
    · rename_i tr _
      obtain ⟨_, _, _, shape⟩ := requestCapture_shape
        (applyJudgement l f ((s.store.bank (s.cls.get l).bank).judge l f window) s) l tr (20 + f.payload) window
      rw [shape, applied]
    · rw [applied]
  have inspected : ∀ window, (classifierInspect l window s).resetLow = s.resetLow := fun window => by
    unfold classifierInspect
    dsimp only
    rw [leaveClassification_eq]
    split
    · rfl
    · exact pending _ window
    · rfl
  exact inspected _

theorem afterValid_withRx (p : LinePort) (r : Reception) :
    LinePort.afterValid { p with rx := r } = { p.afterValid with rx := r } := by
  unfold LinePort.afterValid
  dsimp only
  split <;> rfl

/-- The counts of a line may move before its inspection or after it. -/
theorem inspectionComplete_afterValid :
    inspectionComplete l (s.setPort l (s.port.get l).afterValid) =
      (inspectionComplete l s).setPort l ((inspectionComplete l s).port.get l).afterValid := by
  have lines : ∀ p, ((s.port.set l (s.port.get l).afterValid).get p).line = (s.port.get p).line := fun p => by
    rw [PerLine.get_set]
    split
    · rename_i same
      rw [same, afterValid_line]
    · rfl
  have rx : ((s.setPort l (s.port.get l).afterValid).port.get l).rx = (s.port.get l).rx := by simp
  have port := classifierInspect_port s l ((s.port.get l).rx.bytes.take 64)
  unfold inspectionComplete
  dsimp only
  rw [rx, show s.setPort l (s.port.get l).afterValid =
    { s with port := s.port.set l (s.port.get l).afterValid } from rfl,
    classifierInspect_ports lines]
  generalize classifierInspect l ((s.port.get l).rx.bytes.take 64) s = u at *
  simp only [State.setRx, State.setPort, PerLine.get_set_same, PerLine.set_set, afterValid_withRx, port]

/-- R10: an early END completes the inspection, and the frame end follows at once. -/
theorem frameEnd_inspected (notInspect : ((inspectionComplete l s).port.get l).rx.state ≠ .inspect)
    (inspect : (s.port.get l).rx.state = .inspect) : frameEnd l s = frameEnd l (inspectionComplete l s) := by
  rw [frameEnd_inspect s l inspect, frameEnd_eq _ l notInspect]

/-- After inspection complete the delimiter stands in BODY or DISCARD. -/
theorem inspectionComplete_state :
    ((inspectionComplete l s).port.get l).rx.state = .body ∨
      ((inspectionComplete l s).port.get l).rx.state = .discard := by
  unfold inspectionComplete
  simp only [State.setRx, State.setPort, PerLine.get_set_same]
  split
  · exact .inl rfl
  · exact .inr rfl

/-- R10: END in INSPECT is inspection complete and then END. -/
theorem exec_end_inspect {s : State} (awake : s.resetLow = false) (up : (s.port.get l).line = .up)
    (inspect : (s.port.get l).rx.state = .inspect) :
    exec (.symbolReceived l .endSym) s = exec (.symbolReceived l .endSym) (inspectionComplete l s) := by
  have after := inspectionComplete_state s l
  have awake' : (inspectionComplete l s).resetLow = false := (inspectionComplete_resetLow s l).trans awake
  have up' : ((inspectionComplete l s).port.get l).line = .up := (inspectionComplete_frame l s).line.trans up
  have rx : ∀ t : State, ((t.setPort l (t.port.get l).afterValid).port.get l).rx = (t.port.get l).rx := by simp
  have inFrame : ((inspectionComplete l s).port.get l).rx.state ≠ .idle := by rcases after with h | h <;> simp [h]
  have notInspect : ((inspectionComplete l s).port.get l).rx.state ≠ .inspect := by rcases after with h | h <;> simp [h]
  rw [exec_valid l awake up (by simp), exec_valid l awake' up' (by simp),
    delimit_end _ l (by rw [rx, inspect]; simp), delimit_end _ l (by rwa [rx]),
    frameEnd_inspected _ l ?_ (by rwa [rx]), inspectionComplete_afterValid]
  rw [inspectionComplete_afterValid, rx]
  exact notInspect

end Sys2Proof.Machine
end

section
/-! SUPPORT. Inspection complete of a PENDING frame: what the judgement applied leaves, by its outcome, and then the
capture request (R65 to R72). -/

namespace Sys2Proof.Machine

/-! ## The judgement applied, outcome by outcome -/

/-- From `s` to `t` no notice was handed over and no offer made. -/
def State.Quiet (s t : State) : Prop :=
  t.noticeSeq = s.noticeSeq ∧ t.service = s.service ∧ t.offers = s.offers ∧
    ∀ p, t.counters.read (.line p .noticeLost) = s.counters.read (.line p .noticeLost)

/-- The state of a frame judged and refused its cells, before the notice. -/
def State.cellsRefused (s : State) (l : Line) (j : Judgement) (c : TrafficClass) : State :=
  { s with
    cls := s.cls.set l { s.cls.get l with state := .draining, outcome := .drop .noCell, trigger := j.trigger }
    pool := { s.pool with armed := false }
    counters := (s.counters.addHits j.hits).add (.egress l.opposite c .noCell) 1 }

variable (s : State) (l : Line) (f : HeaderFacts) (j : Judgement)

/-- Table 4-5: the drop counter that a judgement moves on line `l`, its reservation included. -/
def State.judgedCounter (s : State) (l : Line) (f : HeaderFacts) (j : Judgement) : Option CounterId :=
  match j.outcome with
  | .drop r => r.arrivalCounter.map (.arrival l)
  | .pass c =>
    if (s.classPol l.opposite c).cellLimit.toNat < s.occupancy l.opposite c + cellsFor (20 + f.payload) then
      some (.egress l.opposite c .queueLimit)
    else if grantTest s.pool s.active.devpol l.opposite (cellsFor (20 + f.payload)) then none
    else some (.egress l.opposite c .noCell)
  | _ => none

theorem judgedCounter_drop {r : DropReason} (drop : j.outcome = .drop r) :
    s.judgedCounter l f j = r.arrivalCounter.map (.arrival l) := by
  simp only [State.judgedCounter, drop]

section

variable {c : TrafficClass} (pass : j.outcome = .pass c)

include pass

theorem judgedCounter_queueLimit
    (above : (s.classPol l.opposite c).cellLimit.toNat < s.occupancy l.opposite c + cellsFor (20 + f.payload)) :
    s.judgedCounter l f j = some (.egress l.opposite c .queueLimit) := by
  simp only [State.judgedCounter, pass, above, if_true]

section

variable (within : s.occupancy l.opposite c + cellsFor (20 + f.payload) ≤ (s.classPol l.opposite c).cellLimit.toNat)

include within

theorem judgedCounter_granted
    (granted : grantTest s.pool s.active.devpol l.opposite (cellsFor (20 + f.payload)) = true) :
    s.judgedCounter l f j = none := by
  simp only [State.judgedCounter, pass, Nat.not_lt_of_le within, granted, if_true, if_false]

theorem judgedCounter_refused
    (refused : grantTest s.pool s.active.devpol l.opposite (cellsFor (20 + f.payload)) = false) :
    s.judgedCounter l f j = some (.egress l.opposite c .noCell) := by
  simp only [State.judgedCounter, pass, Nat.not_lt_of_le within, refused, if_false, Bool.false_eq_true]

/-- R77, R81: a frame granted its cells is CARRYING with its RECEIVING descriptor. -/
theorem applyJudgement_granted
    (granted : grantTest s.pool s.active.devpol l.opposite (cellsFor (20 + f.payload)) = true) :
    applyJudgement l f j s =
      { s with
        cls := s.cls.set l
          { s.cls.get l with
            state := .carrying, outcome := .pass c, trigger := j.trigger
            reservation := some
              { arrival := l, cls := c, total := 20 + f.payload, cells := cellsFor (20 + f.payload), entry := none,
                state := .receiving, data := [] } }
        pool := s.pool.take l.opposite (cellsFor (20 + f.payload))
        counters := s.counters.addHits j.hits } := by
  have same := judged_occupancy s l j c
  rw [applyJudgement_pass s l f j pass, reserve_granted (s.judged l j) l c _ (by rw [same]; exact within) granted,
    judged_cls]
  simp only [State.judged, PerLine.set_set, pass]

/-- R71, R80: a frame refused its cells is drained, and an ARMED flag raises its notice. -/
theorem applyJudgement_refused
    (refused : grantTest s.pool s.active.devpol l.opposite (cellsFor (20 + f.payload)) = false) :
    applyJudgement l f j s =
      if s.pool.armed then notify (.poolExhausted l.opposite) s.timebase (s.cellsRefused l j c)
      else s.cellsRefused l j c := by
  have same := judged_occupancy s l j c
  have state : (s.judged l j).refused l c = s.cellsRefused l j c := by
    unfold State.refused State.cellsRefused
    rw [judged_cls]
    simp only [State.judged, PerLine.set_set]
  rw [applyJudgement_pass s l f j pass, reserve_refused (s.judged l j) l c _ (by rw [same]; exact within) refused,
    state]
  rfl

end

/-- R70: a frame over its class limit is drained. -/
theorem applyJudgement_queueLimit
    (above : (s.classPol l.opposite c).cellLimit.toNat < s.occupancy l.opposite c + cellsFor (20 + f.payload)) :
    applyJudgement l f j s =
      { s with
        cls := s.cls.set l { s.cls.get l with state := .draining, outcome := .drop .queueLimit, trigger := j.trigger }
        counters := (s.counters.addHits j.hits).add (.egress l.opposite c .queueLimit) 1 } := by
  have same := judged_occupancy s l j c
  rw [applyJudgement_pass s l f j pass, reserve_queueLimit (s.judged l j) l c _ (by rw [same]; exact above), judged_cls]
  simp only [State.judged, PerLine.set_set]

end

/-- Counters that move by the hits and by one counter more. -/
theorem read_addHits_add (b : Counters) (hits : List HitCounter) (moved id : CounterId) :
    ((b.addHits hits).add moved 1).read id =
      ((b.read id).add (hits.countP fun h => id = .hit h)).add (if some moved = some id then 1 else 0) := by
  rw [Counters.read_add, read_addHits]
  by_cases same : id = moved
  · simp [same]
  · simp [same, Ne.symm same, Counter.add_zero]

/-- R65 to R71: the counters that a judgement moves, lost notices aside. -/
theorem applyJudgement_read (decided : j.outcome.Decided) {id : CounterId} (notLost : ∀ p, id ≠ .line p .noticeLost) :
    (applyJudgement l f j s).counters.read id =
      ((s.counters.read id).add (j.hits.countP fun h => id = .hit h)).add
        (if s.judgedCounter l f j = some id then 1 else 0) := by
  rcases decided with ⟨c, pass⟩ | ⟨r, drop, counts⟩
  · by_cases above : (s.classPol l.opposite c).cellLimit.toNat < s.occupancy l.opposite c + cellsFor (20 + f.payload)
    · rw [applyJudgement_queueLimit s l f j pass above, judgedCounter_queueLimit s l f j pass above]
      exact read_addHits_add _ _ _ _
    · have within := Nat.le_of_not_lt above
      cases granted : grantTest s.pool s.active.devpol l.opposite (cellsFor (20 + f.payload)) with
      | true =>
        rw [applyJudgement_granted s l f j pass within granted, judgedCounter_granted s l f j pass within granted]
        refine (read_addHits _ _ _).trans ?_
        simp [Counter.add_zero]
      | false =>
        rw [applyJudgement_refused s l f j pass within granted, judgedCounter_refused s l f j pass within granted]
        have read := read_addHits_add s.counters j.hits (.egress l.opposite c .noCell) id
        split
        · refine ((notify_lost_offers (s.cellsRefused l j c) _ _).1 id fun ⟨p, e⟩ => notLost p e).trans ?_
          exact read
        · exact read
  · obtain ⟨k, counts⟩ := Option.isSome_iff_exists.1 counts
    rw [applyJudgement_drop s l f j drop counts, judgedCounter_drop s l f j drop, counts]
    exact read_addHits_add _ _ _ _

/-- The drop counter of a judgement is one of an arrival or of an egress class. -/
theorem judgedCounter_sort {id : CounterId} (moved : s.judgedCounter l f j = some id) :
    (∃ k, id = .arrival l k) ∨ ∃ c k, id = .egress l.opposite c k := by
  unfold State.judgedCounter at moved
  split at moved
  · obtain ⟨k, -, rfl⟩ := Option.map_eq_some_iff.1 moved
    exact .inl ⟨k, rfl⟩
  · split at moved
    · exact .inr ⟨_, _, (Option.some.inj moved).symm⟩
    · split at moved
      · exact absurd moved (by simp)
      · exact .inr ⟨_, _, (Option.some.inj moved).symm⟩
  · exact absurd moved (by simp)

end Sys2Proof.Machine
end

section
/-! SUPPORT. The capture request after a judgement, and inspection complete as a whole (R69, R72, R78). -/

namespace Sys2Proof.Machine

variable (s : State) (l : Line) (f : HeaderFacts) (window : List Byte)

/-! ## The capture request -/

/-- R69: the capture request of a frame that its judgement marked. -/
def State.capturing (s : State) (l : Line) (f : HeaderFacts) (window : List Byte) : Option Trigger → State
  | some tr => requestCapture l tr (20 + f.payload) window s
  | none => s

theorem inspectPending_eq :
    inspectPending l f window s =
      (applyJudgement l f ((s.store.bank (s.cls.get l).bank).judge l f window) s).capturing l f window
        ((s.store.bank (s.cls.get l).bank).judge l f window).trigger := by
  unfold inspectPending State.capturing
  obtain ⟨o, tr, hits⟩ := (s.store.bank (s.cls.get l).bank).judge l f window
  cases tr <;> rfl

/-- A capture request gives the frame a slot number at most, and counts a miss at most. -/
theorem capturing_effects (tr : Option Trigger) :
    let b := s.capturing l f window tr
    b.cls = s.cls.set l { s.cls.get l with slot := (b.cls.get l).slot } ∧
      s.CountsOnly b (· = .capture .missed) ∧
      b = { s with cls := b.cls, capture := b.capture, counters := b.counters } := by
  cases tr with
  | none => exact ⟨(PerLine.set_get _ _).symm, .of_eq rfl, rfl⟩
  | some tr =>
    intro b
    have entry : b = requestCapture l tr (20 + f.payload) window s := rfl
    cases given : s.capture.choose s.active.devpol.captureMode with
    | none =>
      rw [requestCapture_missed s l tr _ window given] at entry
      rw [entry]
      exact ⟨(PerLine.set_get _ _).symm, fun id other => Counters.read_add_ne _ 1 other, rfl⟩
    | some k =>
      rw [requestCapture_given s l tr _ window given] at entry
      rw [entry]
      refine ⟨?_, .of_eq rfl, rfl⟩
      dsimp only
      rw [PerLine.get_set_same]

/-- R164: the slot given is FILLING with the record of the frame. -/
theorem capturing_filling (free : (s.cls.get l).slot = none) (tr : Trigger) {n : Fin 4}
    (slot : ((s.capturing l f window (some tr)).cls.get l).slot = some n) :
    (s.capturing l f window (some tr)).capture.slot n = .filling
      { arrival := l, start := (s.cls.get l).start, generation := (s.cls.get l).generation, trigger := tr,
        total := 20 + f.payload, outcome := (s.cls.get l).outcome } window := by
  have entry : s.capturing l f window (some tr) = requestCapture l tr (20 + f.payload) window s := rfl
  cases given : s.capture.choose s.active.devpol.captureMode with
  | none =>
    rw [entry, requestCapture_missed s l tr _ window given] at slot
    exact absurd (free.symm.trans slot) (by simp)
  | some k =>
    rw [entry, requestCapture_given s l tr _ window given] at slot ⊢
    have same : k = n := by simpa using slot
    subst same
    exact (CaptureStore.slot_claim _ _ _ _ _).trans (if_pos rfl)

/-! ## Inspection complete -/

/-- R72: inspection complete of a PENDING frame: the judgement applied, the capture request, and the delimiter sent
on. -/
theorem inspectionComplete_judged (outcome : (s.cls.get l).outcome = .pending) (facts : (s.cls.get l).facts = some f)
    {j : Judgement} (judged : (s.store.bank (s.cls.get l).bank).judge l f ((s.port.get l).rx.bytes.take 64) = j) :
    let a := applyJudgement l f j s
    let b := a.capturing l f ((s.port.get l).rx.bytes.take 64) j.trigger
    inspectionComplete l s =
      { b with
        port := s.port.set l
          { s.port.get l with
            rx := { (s.port.get l).rx with state := if (a.cls.get l).goesOn then .body else .discard } }
        store := { s.store with phase := s.phaseLeaving l } } := by
  intro a b
  obtain ⟨cls, -, shape⟩ := capturing_effects a l f ((s.port.get l).rx.bytes.take 64) j.trigger
  obtain ⟨_, _, _, _, _, _, applied⟩ := applyJudgement_shape s l f j (judged ▸ judge_decided _ l f _)
  have inspected : inspectPending l f ((s.port.get l).rx.bytes.take 64) s = b := by
    rw [inspectPending_eq, judged]
  have goes : (b.cls.get l).goesOn = (a.cls.get l).goesOn := by
    show ((a.capturing _ _ _ _).cls.get l).goesOn = _
    rw [cls, PerLine.get_set_same]
    rfl
  have store : b.store = s.store := by
    show (a.capturing _ _ _ _).store = _
    rw [shape]
    show (applyJudgement l f j s).store = _
    rw [applied]
  have port : b.port = s.port := by
    show (a.capturing _ _ _ _).port = _
    rw [shape]
    show (applyJudgement l f j s).port = _
    rw [applied]
  have now : b.timebase = s.timebase := by
    show (a.capturing _ _ _ _).timebase = _
    rw [shape]
    show (applyJudgement l f j s).timebase = _
    rw [applied]
  have leaving : b.phaseLeaving l = s.phaseLeaving l := by
    unfold State.phaseLeaving
    rw [store, now]
  rw [inspectionComplete_pending s l outcome facts]
  dsimp only
  rw [inspected, leaveClassification_eq, leaving]
  unfold State.setRx State.setPort State.setPhase
  dsimp only
  rw [goes, port, store]

end Sys2Proof.Machine
end

section
/-! SUPPORT. Inspection complete of a PENDING frame, store by store and outcome by outcome. -/

namespace Sys2Proof.Machine

/-- What a notice event hands over stands in the sequence, the service queues, the offers and the lost notices. -/
theorem State.Notifies.of_eq_right {s t u : State} {event : List Byte} (h : s.Notifies t event)
    (seq : u.noticeSeq = t.noticeSeq) (service : u.service = t.service) (offers : u.offers = t.offers)
    (lost : ∀ p, u.counters.read (.line p .noticeLost) = t.counters.read (.line p .noticeLost)) :
    s.Notifies u event := by
  unfold State.Notifies at h ⊢
  simp only [seq, service, offers, lost]
  exact h

theorem State.Quiet.of_eq_right {s t u : State} (h : s.Quiet t)
    (seq : u.noticeSeq = t.noticeSeq) (service : u.service = t.service) (offers : u.offers = t.offers)
    (lost : ∀ p, u.counters.read (.line p .noticeLost) = t.counters.read (.line p .noticeLost)) : s.Quiet u := by
  obtain ⟨h1, h2, h3, h4⟩ := h
  exact ⟨seq.trans h1, service.trans h2, offers.trans h3, fun p => (lost p).trans (h4 p)⟩

variable (s : State) (l : Line) (f : HeaderFacts) (j : Judgement)

/-- A judgement moves no lost notice by itself. -/
theorem read_lost_addHits_add (b : Counters) (hits : List HitCounter) {moved : CounterId}
    (other : ∀ p, moved ≠ .line p .noticeLost) (p : Line) :
    ((b.addHits hits).add moved 1).read (.line p .noticeLost) = b.read (.line p .noticeLost) := by
  rw [read_addHits_add]
  simp [other, Counter.add_zero]

theorem quiet_cellsRefused (c : TrafficClass) : s.Quiet (s.cellsRefused l j c) :=
  ⟨rfl, rfl, rfl, read_lost_addHits_add _ _ (by simp)⟩

/-- R71, R80: the classifier, the pool and the notice of a frame refused its cells. -/
theorem applyJudgement_refused_effects {c : TrafficClass} (pass : j.outcome = .pass c)
    (within : s.occupancy l.opposite c + cellsFor (20 + f.payload) ≤ (s.classPol l.opposite c).cellLimit.toNat)
    (refused : grantTest s.pool s.active.devpol l.opposite (cellsFor (20 + f.payload)) = false) :
    let a := applyJudgement l f j s
    a.cls = s.cls.set l { s.cls.get l with state := .draining, outcome := .drop .noCell, trigger := j.trigger } ∧
      a.pool = { s.pool with armed := false } ∧
      (s.pool.armed = true → s.Notifies a (NoticeEvent.poolExhausted l.opposite).bytes) ∧
      (s.pool.armed = false → s.Quiet a) := by
  intro a
  have entry : a = _ := applyJudgement_refused s l f j pass within refused
  obtain ⟨seq, service, offers, lost⟩ := quiet_cellsRefused s l j c
  cases armed : s.pool.armed with
  | true =>
    rw [if_pos armed] at entry
    obtain ⟨_, _, _, shape⟩ := notify_shape (s.cellsRefused l j c) (.poolExhausted l.opposite) s.timebase
    refine ⟨?_, ?_, fun _ => ?_, nofun⟩
    · rw [entry, shape]
      rfl
    · rw [entry, shape]
      rfl
    · rw [entry]
      exact (notify_notifies (s.cellsRefused l j c) _).of_eq seq rfl rfl rfl service (fun _ => rfl) rfl lost
        fun p => by rw [offers]
  | false =>
    rw [armed, if_neg (by simp)] at entry
    rw [entry]
    exact ⟨rfl, rfl, nofun, fun _ => quiet_cellsRefused s l j c⟩

/-- What a judgement leaves of its classifier beside the state, the outcome, the trigger and the reservation. -/
theorem applyJudgement_own (decided : j.outcome.Decided) :
    ∃ st o held, (applyJudgement l f j s).cls = s.cls.set l
      { s.cls.get l with state := st, outcome := o, trigger := j.trigger, reservation := held } := by
  rcases decided with ⟨c, pass⟩ | ⟨r, drop, counts⟩
  · by_cases above : (s.classPol l.opposite c).cellLimit.toNat < s.occupancy l.opposite c + cellsFor (20 + f.payload)
    · rw [applyJudgement_queueLimit s l f j pass above]
      exact ⟨_, _, _, rfl⟩
    · have within := Nat.le_of_not_lt above
      cases granted : grantTest s.pool s.active.devpol l.opposite (cellsFor (20 + f.payload)) with
      | true =>
        rw [applyJudgement_granted s l f j pass within granted]
        exact ⟨_, _, _, rfl⟩
      | false => exact ⟨_, _, _, (applyJudgement_refused_effects s l f j pass within granted).1⟩
  · obtain ⟨k, counts⟩ := Option.isSome_iff_exists.1 counts
    rw [applyJudgement_drop s l f j drop counts]
    exact ⟨_, _, _, rfl⟩

section

variable {f j} (outcome : (s.cls.get l).outcome = .pending) (facts : (s.cls.get l).facts = some f)
  (judged : (s.store.bank (s.cls.get l).bank).judge l f ((s.port.get l).rx.bytes.take 64) = j)

include outcome facts judged

/-- Inspection complete adds to the judgement the capture request, the phase and the delimiter's state. -/
theorem inspectionComplete_keeps :
    let a := applyJudgement l f j s
    let t := inspectionComplete l s
    (t.pool = a.pool ∧ t.noticeSeq = a.noticeSeq ∧ t.service = a.service ∧ t.offers = a.offers) ∧
      a.CountsOnly t (· = .capture .missed) ∧
      ∀ K, a.cls = s.cls.set l K →
        t.cls.get l = { K with slot := (t.cls.get l).slot } ∧
        (t.port.get l).rx = { (s.port.get l).rx with state := if K.goesOn then .body else .discard } := by
  intro a t
  have entry : t = _ := inspectionComplete_judged s l f outcome facts judged
  obtain ⟨cls, counts, shape⟩ := capturing_effects a l f ((s.port.get l).rx.bytes.take 64) j.trigger
  refine ⟨?_, ?_, fun K own => ?_⟩
  · rw [entry, shape]
    exact ⟨rfl, rfl, rfl, rfl⟩
  · rw [entry]
    exact counts
  · have held : a.cls.get l = K := by rw [own, PerLine.get_set_same]
    rw [held] at cls
    rw [entry]
    dsimp only
    rw [PerLine.get_set_same, show (applyJudgement l f j s).cls.get l = K from held]
    refine ⟨?_, rfl⟩
    show (a.capturing l f _ _).cls.get l = _
    rw [cls, PerLine.get_set_same]

/-- The capture request of inspection complete is made in the state the judgement leaves. -/
theorem inspectionComplete_captures (free : (s.cls.get l).slot = none) :
    let window := (s.port.get l).rx.bytes.take 64
    let t := inspectionComplete l s
    (j.trigger = none → (t.cls.get l).slot = none ∧ t.capture = s.capture ∧
      t.counters.read (.capture .missed) = s.counters.read (.capture .missed)) ∧
    (∀ tr, j.trigger = some tr →
      (∀ n, (t.cls.get l).slot = some n → t.capture.slot n = .filling
        { arrival := l, start := (s.cls.get l).start, generation := (s.cls.get l).generation, trigger := tr,
          total := 20 + f.payload, outcome := (t.cls.get l).outcome } window) ∧
      ∃ u, u.capture = s.capture ∧ u.store = s.store ∧ u.cls.get l = { t.cls.get l with slot := none } ∧
        u.CountsOnly t (· = .capture .missed) ∧
        u.counters.read (.capture .missed) = s.counters.read (.capture .missed) ∧
        t.capture = (requestCapture l tr (20 + f.payload) window u).capture ∧
        t.counters = (requestCapture l tr (20 + f.payload) window u).counters ∧
        t.cls.get l = (requestCapture l tr (20 + f.payload) window u).cls.get l) := by
  intro window t
  have decided : j.outcome.Decided := judged ▸ judge_decided _ l f _
  obtain ⟨_, _, _, _, _, _, applied⟩ := applyJudgement_shape s l f j decided
  have entry : t = _ := inspectionComplete_judged s l f outcome facts judged
  obtain ⟨st, o, held, own⟩ := applyJudgement_own s l f j decided
  obtain ⟨-, counts, lanes⟩ := inspectionComplete_keeps s l outcome facts judged
  have missed : (applyJudgement l f j s).counters.read (.capture .missed) = s.counters.read (.capture .missed) := by
    have other : s.judgedCounter l f j ≠ some (.capture .missed) := fun e => by
      rcases judgedCounter_sort s l f j e with ⟨k, e⟩ | ⟨c, k, e⟩ <;> simp at e
    rw [applyJudgement_read s l f j decided (by simp), if_neg other]
    simp [Counter.add_zero]
  have lane : (applyJudgement l f j s).cls.get l =
      { s.cls.get l with state := st, outcome := o, trigger := j.trigger, reservation := held } := by
    rw [own, PerLine.get_set_same]
  have empty : ((applyJudgement l f j s).cls.get l).slot = none := by rw [lane]; exact free
  have capture : (applyJudgement l f j s).capture = s.capture := by rw [applied]
  refine ⟨fun unmarked => ?_, fun tr marked => ?_⟩
  · rw [unmarked] at entry
    rw [entry]
    exact ⟨empty, capture, missed⟩
  · obtain ⟨after, -⟩ := lanes _ own
    rw [marked] at entry
    refine ⟨fun n slot => ?_, applyJudgement l f j s, capture, by rw [applied], ?_, counts, missed, ?_, ?_, ?_⟩
    · rw [entry] at slot
      have filled := capturing_filling (applyJudgement l f j s) l f window empty tr (n := n) slot
      rw [lane] at filled
      rw [after, entry]
      exact filled
    · rw [lane, after]
      dsimp only
      rw [free]
    · rw [entry]
      rfl
    · rw [entry]
      rfl
    · rw [entry]
      rfl

end

end Sys2Proof.Machine
end

section
/-! SUPPORT. Inspection complete: each outcome of a PENDING frame in the words of the statement. -/

namespace Sys2Proof.Machine

variable (s : State) (l : Line)

/-- Inspection complete of a PENDING frame leaves the stores that it does not write. -/
theorem inspectionComplete_frameRest {f : HeaderFacts} (outcome : (s.cls.get l).outcome = .pending)
    (facts : (s.cls.get l).facts = some f) :
    let t := inspectionComplete l s
    t.store.phase = s.phaseLeaving l ∧ t.port.get l.opposite = s.port.get l.opposite ∧
      t.cls.get l.opposite = s.cls.get l.opposite ∧
      t = { s with
        port := t.port, cls := t.cls, store := { s.store with phase := t.store.phase }, pool := t.pool
        capture := t.capture, noticeSeq := t.noticeSeq, service := t.service, offers := t.offers
        counters := t.counters } := by
  intro t
  have frame := inspectionComplete_frame l s
  obtain ⟨_, _, _, _, _, _, applied⟩ := applyJudgement_shape s l f _ (judge_decided _ l f _)
  have entry : t = _ := inspectionComplete_judged s l f outcome facts rfl
  obtain ⟨-, -, shape⟩ := capturing_effects
    (applyJudgement l f ((s.store.bank (s.cls.get l).bank).judge l f ((s.port.get l).rx.bytes.take 64)) s) l f
    ((s.port.get l).rx.bytes.take 64)
    ((s.store.bank (s.cls.get l).bank).judge l f ((s.port.get l).rx.bytes.take 64)).trigger
  refine ⟨?_, frame.port, frame.cls, ?_⟩
  · rw [entry]
  · rw [entry, shape, applied]

section

variable {f : HeaderFacts} {j : Judgement} (outcome : (s.cls.get l).outcome = .pending)
  (facts : (s.cls.get l).facts = some f)
  (judged : (s.store.bank (s.cls.get l).bank).judge l f ((s.port.get l).rx.bytes.take 64) = j)

include outcome facts judged

/-- What the judgement did not hand over, inspection complete does not hand over. -/
theorem inspectionComplete_quiet (quiet : s.Quiet (applyJudgement l f j s)) : s.Quiet (inspectionComplete l s) := by
  obtain ⟨⟨-, seq, service, offers⟩, counts, -⟩ := inspectionComplete_keeps s l outcome facts judged
  exact quiet.of_eq_right seq service offers fun p => counts _ (by simp)

theorem inspectionComplete_notifies {event : List Byte} (notifies : s.Notifies (applyJudgement l f j s) event) :
    s.Notifies (inspectionComplete l s) event := by
  obtain ⟨⟨-, seq, service, offers⟩, counts, -⟩ := inspectionComplete_keeps s l outcome facts judged
  exact notifies.of_eq_right seq service offers fun p => counts _ (by simp)

/-- The counters of inspection complete, lost notices and missed captures aside. -/
theorem inspectionComplete_read {id : CounterId} (notLost : ∀ p, id ≠ .line p .noticeLost)
    (notMissed : id ≠ .capture .missed) :
    (inspectionComplete l s).counters.read id =
      ((s.counters.read id).add (j.hits.countP fun h => id = .hit h)).add
        (if s.judgedCounter l f j = some id then 1 else 0) := by
  obtain ⟨-, counts, -⟩ := inspectionComplete_keeps s l outcome facts judged
  rw [counts id notMissed, applyJudgement_read s l f j (judged ▸ judge_decided _ l f _) notLost]

/-- R69 to R72: the counters of inspection complete. -/
theorem inspectionComplete_counts :
    let t := inspectionComplete l s
    (∀ h, t.counters.read (.hit h) = (s.counters.read (.hit h)).add (j.hits.count h)) ∧
      (∀ id, s.judgedCounter l f j = some id → t.counters.read id = (s.counters.read id).add 1) ∧
      s.CountsOnly t (fun id =>
        s.judgedCounter l f j = some id ∨ (∃ h, id = .hit h) ∨ id = .capture .missed ∨
          ∃ p, id = .line p .noticeLost) := by
  have read := fun id => inspectionComplete_read s l outcome facts judged (id := id)
  have sort := fun id => judgedCounter_sort s l f j (id := id)
  refine ⟨fun h => ?_, fun id moved => ?_, fun id other => ?_⟩
  · have notMoved : s.judgedCounter l f j ≠ some (.hit h) := fun e => by
      rcases sort _ e with ⟨k, e⟩ | ⟨c, k, e⟩ <;> simp at e
    rw [read _ (by simp) (by simp), if_neg notMoved, Counter.add_zero, ← read_addHits, read_addHits_hit]
  · have plain : (∀ p, id ≠ .line p .noticeLost) ∧ id ≠ .capture .missed ∧ ∀ h, id ≠ .hit h := by
      rcases sort id moved with ⟨k, rfl⟩ | ⟨c, k, rfl⟩ <;> simp
    obtain ⟨notLost, notMissed, notHit⟩ := plain
    rw [read id notLost notMissed, if_pos moved]
    simp [notHit, Counter.add_zero]
  · push Not at other
    obtain ⟨notMoved, notHit, notMissed, notLost⟩ := other
    rw [read id notLost notMissed, if_neg notMoved]
    simp [notHit, Counter.add_zero]

/-- A frame that the judgement drains goes on in DISCARD, and one it grants cells in BODY. -/
theorem inspectionComplete_leaves {st : ClsState} {o : FrameOutcome} {held : Option Descriptor}
    (own : (applyJudgement l f j s).cls = s.cls.set l
      { s.cls.get l with state := st, outcome := o, trigger := j.trigger, reservation := held }) :
    (inspectionComplete l s).cls.get l =
        { s.cls.get l with
          state := st, outcome := o, trigger := j.trigger, reservation := held
          slot := ((inspectionComplete l s).cls.get l).slot } ∧
      ((inspectionComplete l s).port.get l).rx =
        { (s.port.get l).rx with state := if st = .carrying ∨ st = .gathering then .body else .discard } := by
  obtain ⟨-, -, lanes⟩ := inspectionComplete_keeps s l outcome facts judged
  obtain ⟨cls, rx⟩ := lanes _ own
  refine ⟨cls, rx.trans ?_⟩
  cases st <;> rfl

end

/-- Settles O18: the grant, inspection complete, and what becomes of each frame at it. -/
theorem inspectionReservesOrDrops : Obligations.InspectionReservesOrDrops := by
  refine ⟨fun p d e k => ⟨grantTest_iff p d e k, fun room within => ?_⟩, fun l sym b s receives at64 free => ?_,
    fun l s awake up inspect => exec_end_inspect l awake up inspect,
    fun l f s judging outcome facts unreserved free => ?_, fun l s management =>
    inspectionComplete_management s l management⟩
  · exact (grantTest_iff p d e k).2 ⟨room, .inl (by omega)⟩
  · have inFrame : (s.port.get l).rx.state ≠ .idle := by simp [at64.1]
    have notHeader : ¬ ((s.port.get l).rx.state = .header ∧ (s.port.get l).rx.count = 15) := by simp [at64.1]
    rw [← gotByte_free l s sym b free]
    exact (exec_byte l receives inFrame).trans (congrArg _ ((if_neg notHeader).trans (if_pos at64)))
  · intro window j e k t counted quiet leaves
    have same : counted = s.judgedCounter l f j := rfl
    obtain ⟨hits, moved, only⟩ := inspectionComplete_counts s l outcome facts (j := j) rfl
    obtain ⟨unmarked, marked⟩ := inspectionComplete_captures s l outcome facts (j := j) rfl free
    obtain ⟨⟨pool, -⟩, -⟩ := inspectionComplete_keeps s l outcome facts (j := j) rfl
    have silent : s.Quiet (applyJudgement l f j s) → quiet := inspectionComplete_quiet s l outcome facts (j := j) rfl
    have left := fun st o held => inspectionComplete_leaves s l outcome facts (j := j) rfl (st := st) (o := o)
      (held := held)
    rw [← same] at moved only
    refine ⟨hits, moved, only, fun r drop => ?_, fun c pass => ⟨fun above => ?_, fun within granted => ?_,
      fun within refused => ?_⟩, unmarked, marked, inspectionComplete_frameRest s l outcome facts⟩
    · have arrival : r.arrivalCounter.isSome = true := by
        rcases judge_decided (s.store.bank (s.cls.get l).bank) l f window with ⟨c, pass⟩ | ⟨r', drop', counts⟩
        · exact absurd (drop.symm.trans pass) (by simp)
        · rwa [FrameOutcome.drop.inj (drop.symm.trans drop')]
      obtain ⟨i, counts⟩ := Option.isSome_iff_exists.1 arrival
      have applied := applyJudgement_drop s l f j drop counts
      refine ⟨?_, silent ?_, pool.trans ?_, arrival⟩
      · refine left .draining (.drop r) none ?_
        rw [applied]
        dsimp only
        rw [drop, unreserved]
      · rw [applied]
        exact ⟨rfl, rfl, rfl, read_lost_addHits_add _ _ (by simp)⟩
      · rw [applied]
        rfl
    · have applied := applyJudgement_queueLimit s l f j pass above
      refine ⟨?_, silent ?_, pool.trans ?_⟩
      · refine left .draining (.drop .queueLimit) none ?_
        rw [applied, ← unreserved]
      · rw [applied]
        exact ⟨rfl, rfl, rfl, read_lost_addHits_add _ _ (by simp)⟩
      · rw [applied]
    · have applied := applyJudgement_granted s l f j pass within granted
      refine ⟨left .carrying (.pass c) _ (by rw [applied]), silent ?_, pool.trans ?_⟩
      · rw [applied]
        exact ⟨rfl, rfl, rfl, fun p => read_addHits_other _ _ (by simp)⟩
      · rw [applied]
        rfl
    · obtain ⟨own, unarmed, notifies, quietly⟩ := applyJudgement_refused_effects s l f j pass within refused
      have event : (NoticeEvent.poolExhausted l.opposite).bytes =
          [0x05#8, if e = .n then 0x00#8 else 0x01#8, 0x00#8, 0x00#8] := by
        cases l <;> rfl
      refine ⟨left .draining (.drop .noCell) none ?_, pool.trans unarmed, fun armed => ?_, fun disarmed =>
        silent (quietly disarmed)⟩
      · rw [own, ← unreserved]
      · rw [← event]
        exact inspectionComplete_notifies s l outcome facts (j := j) rfl (notifies armed)

end Sys2Proof.Machine
end

section
/-! SUPPORT. The entries of a bank: what a write and a fill of a table leave in it (R23, R24), and that both keep every
entry within the checks of Table 2-10. -/

namespace Sys2Proof.Machine

/-! ## Entries of a table -/

theorem checked_eq_some {α : Type} {ok : α → Bool} {x : Option α} {e : α} :
    checked ok x = some e ↔ x = some e ∧ ok e = true := by
  cases x with
  | none => simp [checked]
  | some d =>
    by_cases passes : ok d = true
    · simp only [checked, passes, if_true, Option.some.injEq]
      exact ⟨fun same => ⟨same, same ▸ passes⟩, And.left⟩
    · simp only [checked, passes, if_false, Option.some.injEq, reduceCtorEq, false_iff, not_and]
      exact fun same => same ▸ passes

/-- What holds of every entry at its index goes on holding when it holds of a written entry at its own. -/
theorem forall_setIfInBounds {α : Type} {n : Nat} {v : Vector α n} {P : Nat → α → Prop}
    (holds : ∀ j : Fin n, P j.val v[j]) {i : Nat} {e : α} (written : P i e) (j : Fin n) :
    P j.val (v.setIfInBounds i e)[j] := by
  have entry : (v.setIfInBounds i e)[j] = if i = j.val then e else v[j] := Vector.getElem_setIfInBounds j.isLt
  rw [entry]
  split
  · rename_i same
    exact same ▸ written
  · exact holds j

/-- Writing an entry where it already stands changes nothing. -/
theorem setIfInBounds_eq_self {α : Type} {n : Nat} {v : Vector α n} {i : Nat} {e : α}
    (stands : ∀ inside : i < n, v[i] = e) : v.setIfInBounds i e = v := by
  apply Vector.ext
  intro j inside
  rw [Vector.getElem_setIfInBounds inside]
  split
  · rename_i same
    subst same
    exact (stands inside).symm
  · rfl

/-- Entry 0 of a filled STATION table is the one kept, the others are the filled one (R24). -/
theorem getElem_filledStation (kept e : StationEntry) {j : Nat} (inside : j < 32) :
    ((Vector.replicate 32 e).set 0 kept)[j] = if j = 0 then kept else e := by
  rw [Vector.getElem_set]
  simp only [Vector.getElem_replicate, eq_comm]

theorem okAt_listed (e : StationEntry) {i : Nat} (listed : 1 ≤ i) : e.okAt i = e.okListed :=
  if_neg (by omega)

/-! ## Writes and fills keep the checks -/

variable {b b' : Bank} {t : TableId} {bs : List Byte}

theorem write_entriesOk (h : b.EntriesOk) {i : Nat} (written : b.write t i bs = some b') : b'.EntriesOk := by
  obtain ⟨station, rules, classpol, portpol, devpol⟩ := h
  cases t with
  | station =>
    obtain ⟨e, passed, rfl⟩ := Option.map_eq_some_iff.1 written
    exact ⟨forall_setIfInBounds (P := fun j (e : StationEntry) => e.okAt j = true) station (checked_eq_some.1 passed).2,
      rules, classpol, portpol, devpol⟩
  | groupmap | flowmap =>
    obtain ⟨e, -, rfl⟩ := Option.map_eq_some_iff.1 written
    exact ⟨station, rules, classpol, portpol, devpol⟩
  | rules =>
    obtain ⟨e, passed, rfl⟩ := Option.map_eq_some_iff.1 written
    exact ⟨station, forall_setIfInBounds (P := fun _ (e : RuleEntry) => e.ok = true) rules (checked_eq_some.1 passed).2,
      classpol, portpol, devpol⟩
  | classpol =>
    obtain ⟨e, passed, rfl⟩ := Option.map_eq_some_iff.1 written
    exact ⟨station, rules, forall_setIfInBounds (P := fun _ (e : ClassPol) => e.ok = true) classpol
      (checked_eq_some.1 passed).2, portpol, devpol⟩
  | portpol =>
    obtain ⟨e, passed, rfl⟩ := Option.map_eq_some_iff.1 written
    refine ⟨station, rules, classpol, fun p => ?_, devpol⟩
    by_cases own : p = if i = 0 then .n else .s
    · rw [PerLine.get_set, if_pos own]
      exact (checked_eq_some.1 passed).2
    · rw [PerLine.get_set, if_neg own]
      exact portpol p
  | devpol =>
    obtain ⟨e, passed, rfl⟩ := Option.map_eq_some_iff.1 written
    exact ⟨station, rules, classpol, portpol, (checked_eq_some.1 passed).2⟩

theorem fill_entriesOk (h : b.EntriesOk) (filled : b.fill t bs = some b') : b'.EntriesOk := by
  obtain ⟨station, rules, classpol, portpol, devpol⟩ := h
  have each : ∀ {α : Type} {n : Nat} {ok : α → Bool} {e : α}, ok e = true →
      ∀ i : Fin n, ok (Vector.replicate n e)[i] = true := fun passes i => by
    rw [show (Vector.replicate _ _)[i] = _ from Vector.getElem_replicate i.isLt]
    exact passes
  cases t with
  | station =>
    obtain ⟨e, passed, rfl⟩ := Option.map_eq_some_iff.1 filled
    refine ⟨fun i => ?_, rules, classpol, portpol, devpol⟩
    have entry : ((Vector.replicate 32 e).set 0 b.station[(0 : Fin 32)])[i] = _ := getElem_filledStation _ e i.isLt
    rw [entry]
    split
    · rename_i zero
      rw [zero]
      exact station 0
    · rw [okAt_listed e (by omega)]
      exact (checked_eq_some.1 passed).2
  | groupmap | flowmap =>
    obtain ⟨e, -, rfl⟩ := Option.map_eq_some_iff.1 filled
    exact ⟨station, rules, classpol, portpol, devpol⟩
  | rules =>
    obtain ⟨e, passed, rfl⟩ := Option.map_eq_some_iff.1 filled
    exact ⟨station, each (checked_eq_some.1 passed).2, classpol, portpol, devpol⟩
  | classpol =>
    obtain ⟨e, passed, rfl⟩ := Option.map_eq_some_iff.1 filled
    exact ⟨station, rules, each (checked_eq_some.1 passed).2, portpol, devpol⟩
  | portpol =>
    obtain ⟨e, passed, rfl⟩ := Option.map_eq_some_iff.1 filled
    refine ⟨station, rules, classpol, fun p => ?_, devpol⟩
    cases p <;> exact (checked_eq_some.1 passed).2
  | devpol =>
    obtain ⟨e, passed, rfl⟩ := Option.map_eq_some_iff.1 filled
    exact ⟨station, rules, classpol, portpol, (checked_eq_some.1 passed).2⟩

/-- The bank is another one with an entry written or a table filled, past the checks of WR or FILL (R23, R24). -/
def Bank.Revises (b' b : Bank) : Prop :=
  (∃ t i bs, b.write t i bs = some b') ∨ ∃ t bs, b.fill t bs = some b'

theorem revises_entriesOk (h : b.EntriesOk) (revised : b'.Revises b) : b'.EntriesOk := by
  obtain ⟨t, i, bs, written⟩ | ⟨t, bs, filled⟩ := revised
  · exact write_entriesOk h written
  · exact fill_entriesOk h filled

end Sys2Proof.Machine
end

section
/-! SUPPORT. What each act does to the two banks, and the proof that every step keeps every entry within its checks. -/

namespace Sys2Proof.Machine

/-! ## The banks of the table store -/

theorem setStaging_bank (t : TableStore) (b : Bank) (x : BankSel) :
    (t.setStaging b).bank x = if x = t.active then t.activeBank else b := by
  unfold TableStore.setStaging TableStore.activeBank
  cases active : t.active <;> cases x <;> rfl

theorem entriesInv_iff (s : State) : s.EntriesInv ↔ ∀ x, (s.store.bank x).EntriesOk :=
  ⟨fun ⟨a, b⟩ x => match x with
    | .a => a
    | .b => b, fun h => ⟨h .a, h .b⟩⟩

/-- From `s` to `t` both banks hold what they held, or their generation-0 contents. -/
def BanksRest (s t : State) : Prop :=
  (∀ x, t.store.bank x = s.store.bank x) ∨ ∃ straps, ∀ x, t.store.bank x = Bank.generation0 straps

/-- From `s` to `t` the staging bank has been replaced by the active contents, or by a revision that passed its checks
(R23, R24, R53). -/
def Restaged (s t : State) : Prop :=
  ∃ b, (b = s.store.activeBank ∨ b.Revises s.store.stagingBank) ∧ ∀ x, t.store.bank x = (s.store.setStaging b).bank x

theorem State.EntriesInv.of_rest {s t : State} (h : s.EntriesInv) (rest : BanksRest s t) : t.EntriesInv := by
  rw [entriesInv_iff] at h ⊢
  intro x
  obtain same | ⟨straps, initial⟩ := rest
  · exact same x ▸ h x
  · exact initial x ▸ generation0_entriesOk straps

theorem State.EntriesInv.of_restaged {s t : State} (h : s.EntriesInv) (staged : Restaged s t) : t.EntriesInv := by
  rw [entriesInv_iff] at h ⊢
  obtain ⟨b, origin, banks⟩ := staged
  intro x
  rw [banks, setStaging_bank]
  split
  · exact h _
  · obtain rfl | revised := origin
    · exact h _
    · exact revises_entriesOk (h _) revised

namespace BanksRest

variable {s t u : State}

theorem of_store (same : t.store = s.store) : BanksRest s t := .inl fun x => by rw [same]

theorem of_egress {p : Line} (h : EgressReach p s t) : BanksRest s t := of_store h.store

theorem of_frame {l : Line} (h : FrameReach l s t) : BanksRest s t :=
  .inl fun x => by
    rw [h.store]
    cases x <;> rfl

theorem of_reset (s t : State) : BanksRest s (fullReset t) := .inr ⟨t.straps, fun x => by cases x <;> rfl⟩

theorem trans (h : BanksRest s t) (k : BanksRest t u) : BanksRest s u := by
  obtain same | initial := k
  · obtain same' | ⟨straps, initial⟩ := h
    · exact .inl fun x => (same x).trans (same' x)
    · exact .inr ⟨straps, fun x => (same x).trans (initial x)⟩
  · exact .inr initial

end BanksRest

/-! ## The management agent -/

variable (s : State)

theorem sendReply_banks (l : Line) (frame : List Byte) (awaited : Bool) :
    BanksRest s (sendReply l frame awaited s) := .of_egress (enqueue_reach s l l _)

theorem answer_banks (status : Byte) (h : InHand) : BanksRest s (answer status h s) := by
  unfold answer
  dsimp only
  split
  · exact sendReply_banks (s.setContext _ _) _ _ _
  · split
    · exact sendReply_banks (s.setContext _ _) _ _ _
    · exact .of_reset s _

theorem beginRequest_banks (i : Fin 4) (r : Request) : BanksRest s (beginRequest i r s) := by
  unfold beginRequest
  dsimp only
  split
  · exact .of_store rfl
  · exact answer_banks (onRole i (Role.renew s.timebase) s) _ _

theorem judgeRequest_banks (i : Fin 4) (c : Context) (r : Request) : BanksRest s (judgeRequest i c r s) := by
  unfold judgeRequest
  split
  · exact beginRequest_banks (s.setContext i _) i r
  · unfold replay
    dsimp only
    split
    · exact sendReply_banks (onRole i (Role.renew s.timebase) s) _ _ _
    · exact .of_store rfl
  · exact sendReply_banks s _ _ _

theorem takeRequest_banks (r : Request) : BanksRest s (takeRequest r s) := by
  unfold takeRequest
  dsimp only
  split
  · split
    · exact judgeRequest_banks (touch _ s) _ _ r
    · exact .of_store rfl
  · split
    · exact beginRequest_banks (touch _ (s.setContext _ _)) _ r
    · exact .of_store rfl

theorem goOn_banks (h : InHand) : BanksRest s (goOn h s) := by
  unfold goOn
  split
  · exact answer_banks s _ h
  · split
    · exact .of_store rfl
    · exact .of_store rfl

theorem startCopy_bank (x : BankSel) : (startCopy s).store.bank x = s.store.bank x := by cases x <;> rfl

theorem expireLease_banks (i : Fin 4) : BanksRest s (expireLease i s) := by
  unfold expireLease
  dsimp only
  refine .trans ?_ (.of_egress (p := .n) (notify_reach _ .n _ _))
  split
  · exact .inl (startCopy_bank (onRole i _ s))
  · exact .of_store rfl

theorem copyDone_restaged : Restaged s (copyDone s) := by
  refine ⟨s.store.activeBank, .inl rfl, fun x => ?_⟩
  have stored : (copyDone s).store = (finishCopy s).store := by
    unfold copyDone
    split
    · obtain ⟨_, _, e⟩ := endWait_shape (finishCopy s) _
      rw [e]
    · rfl
  rw [stored]
  cases x <;> rfl

/-! ## Commands of a request -/

variable (h : InHand)

/-- What holds of a refusal for its operands' length and of the command judged further holds of the command. -/
theorem withForm_leads {P : State → Prop} {n : Nat} {ops : List Byte} {f : InHand → State → State}
    (refused : P (finishCommand h .badValue [] s)) (judged : P (f h s)) : P (withForm n ops f h s) := by
  unfold withForm
  split
  · exact judged
  · exact refused

/-- What holds of a refusal for want of the role and of the command judged further holds of the command. -/
theorem editorOnly_leads {P : State → Prop} {f : InHand → State → State}
    (refused : P (finishCommand h .notEditor [] s)) (judged : P (f h s)) : P (editorOnly f h s) := by
  unfold editorOnly
  split
  · exact judged
  · exact refused

theorem finishCommand_banks (st : Status) (d : List Byte) : BanksRest s (finishCommand h st d s) := .of_store rfl

theorem openWith_banks (l : Half) : BanksRest s (openWith l h s) := by
  unfold openWith
  split
  · exact finishCommand_banks s h _ _
  · split <;> split <;> exact .of_store rfl

theorem waitedRevert_banks : BanksRest s (waitedRevert h s) := .inl (startCopy_bank s)

theorem closeNow_banks : BanksRest s (closeNow h s) := by
  unfold closeNow
  split
  · exact waitedRevert_banks s h
  · exact .of_store rfl

theorem revertNow_banks : BanksRest s (revertNow h s) := by
  unfold revertNow
  split
  · exact waitedRevert_banks s h
  · exact finishCommand_banks s h _ _

theorem readTable_banks (ops : List Byte) : BanksRest s (readTable ops h s) := by
  unfold readTable
  dsimp only
  split
  · exact finishCommand_banks s h _ _
  · split
    · exact finishCommand_banks s h _ _
    · split
      · exact finishCommand_banks s h _ _
      · split
        · exact finishCommand_banks s h _ _
        · split <;> exact finishCommand_banks s h _ _

theorem statNow_banks (ops : List Byte) : BanksRest s (statNow ops h s) := by
  unfold statNow
  split
  · exact finishCommand_banks s h _ _
  · split
    · exact finishCommand_banks s h _ _
    · exact finishCommand_banks s h _ _
    · unfold readCounters
      dsimp only
      split <;> exact .of_store rfl

theorem captNow_banks (ops : List Byte) : BanksRest s (captNow ops h s) := by
  unfold captNow
  split
  · exact finishCommand_banks s h _ _
  · exact finishCommand_banks s h _ _

theorem freeNow_banks (ops : List Byte) : BanksRest s (freeNow ops h s) := by
  unfold freeNow
  split
  · exact finishCommand_banks s h _ _
  · split <;> exact .of_store rfl

theorem queryNow_banks : BanksRest s (queryNow h s) := by
  unfold queryNow
  dsimp only
  split
  · split <;> exact .of_store rfl
  · exact finishCommand_banks s h _ _

theorem flip_banks : BanksRest s (flip s) := by
  have stored : BanksRest s (flipStore s) := by
    refine .inl fun x => ?_
    unfold flipStore
    dsimp only
    split <;> cases x <;> rfl
  exact flipActs_keeps (BanksRest s) s (fun rest a _ k => k.trans (.of_egress (flipAct_reach _ s rest a)))
    (flipOrder s.choices flipAll) _ stored

theorem commitNow_banks : BanksRest s (commitNow h s) := by
  unfold commitNow
  split
  · exact finishCommand_banks s h _ _
  · split
    · exact flip_banks s
    · exact finishCommand_banks s h _ _

theorem trafficReset_store : (trafficReset s).store = s.store :=
  (clearEgress_reach _ .s).store.trans (clearEgress_reach _ .n).store

theorem clearTraffic_banks : BanksRest s (clearTraffic h s) :=
  .trans (.of_store (trafficReset_store s)) (finishCommand_banks _ h _ _)

theorem finishWrite_banks (t : TableId) (i : Nat) {x : Option Bank}
    (revised : ∀ b, x = some b → b.Revises s.store.stagingBank) :
    BanksRest s (finishWrite t i x h s) ∨ Restaged s (finishWrite t i x h s) := by
  cases x with
  | none => exact .inl (finishCommand_banks s h _ _)
  | some b => exact .inr ⟨b, .inr (revised b rfl), fun x => by cases x <;> rfl⟩

theorem writeEntry_banks (ops : List Byte) :
    BanksRest s (writeEntry ops h s) ∨ Restaged s (writeEntry ops h s) := by
  unfold writeEntry
  dsimp only
  split
  · exact .inl (finishCommand_banks s h _ _)
  · split
    · exact .inl (finishCommand_banks s h _ _)
    · split
      · exact .inl (finishCommand_banks s h _ _)
      · exact finishWrite_banks s h _ _ fun b written => .inl ⟨_, _, _, written⟩

theorem fillTable_banks (ops : List Byte) : BanksRest s (fillTable ops h s) ∨ Restaged s (fillTable ops h s) := by
  unfold fillTable
  split
  · exact .inl (finishCommand_banks s h _ _)
  · split
    · exact .inl (finishCommand_banks s h _ _)
    · exact finishWrite_banks s h _ _ fun b filled => .inr ⟨_, _, filled⟩

/-- A command leaves the banks at rest, or it is a WR or a FILL that replaces the staging bank. -/
theorem command_banks {i : Instr} {f : InHand → State → State} (means : commandMeaning i = some f) :
    BanksRest s (f h s) ∨ Restaged s (f h s) := by
  have refused : ∀ st, BanksRest s (finishCommand h st [] s) := fun st => finishCommand_banks s h st []
  cases i with
  | openSession ops =>
    obtain rfl := Option.some.inj means
    exact .inl (withForm_leads s h (refused _) (openWith_banks s h _))
  | closeSession ops =>
    obtain rfl := Option.some.inj means
    exact .inl (editorOnly_leads s h (refused _) (withForm_leads s h (refused _) (closeNow_banks s h)))
  | rd ops =>
    obtain rfl := Option.some.inj means
    exact .inl (withForm_leads s h (refused _) (readTable_banks s h ops))
  | wr ops =>
    obtain rfl := Option.some.inj means
    exact editorOnly_leads (P := fun t => BanksRest s t ∨ Restaged s t) s h (.inl (refused _))
      (writeEntry_banks s h ops)
  | fill ops =>
    obtain rfl := Option.some.inj means
    exact editorOnly_leads (P := fun t => BanksRest s t ∨ Restaged s t) s h (.inl (refused _))
      (fillTable_banks s h ops)
  | commit ops =>
    obtain rfl := Option.some.inj means
    exact .inl (editorOnly_leads s h (refused _) (withForm_leads s h (refused _) (commitNow_banks s h)))
  | revert ops =>
    obtain rfl := Option.some.inj means
    exact .inl (editorOnly_leads s h (refused _) (withForm_leads s h (refused _) (revertNow_banks s h)))
  | stat ops =>
    obtain rfl := Option.some.inj means
    exact .inl (withForm_leads s h (refused _) (statNow_banks s h ops))
  | capt ops =>
    obtain rfl := Option.some.inj means
    exact .inl (withForm_leads s h (refused _) (captNow_banks s h ops))
  | free ops =>
    obtain rfl := Option.some.inj means
    exact .inl (withForm_leads s h (refused _) (freeNow_banks s h ops))
  | query ops =>
    obtain rfl := Option.some.inj means
    exact .inl (withForm_leads s h (refused _) (queryNow_banks s h))
  | resetCounters =>
    obtain rfl := Option.some.inj means
    exact .inl (.of_store rfl)
  | resetTraffic =>
    obtain rfl := Option.some.inj means
    exact .inl (clearTraffic_banks s h)
  | resetFull =>
    obtain rfl := Option.some.inj means
    exact .inl (.of_store rfl)
  | resetnAssert | resetnRelease _ | symbolReceived _ _ | egressDecision _ | launchCompletion _ | residenceExpiry _ _
  | windowRelease _ _ | ageingEvent _ _ | cadenceExpiry _ | requestTake | copyBackCompletion | leaseExpiry =>
    exact absurd means (by simp [commandMeaning])

/-! ## Every step -/

theorem completeLaunch_banks (p : Line) (x : Launch) : BanksRest s (completeLaunch p x s) := by
  cases awaited : x.source.awaited with
  | false => exact .of_egress (completeLaunch_reach s p x awaited)
  | true =>
    unfold completeLaunch
    simp only [awaited, if_true]
    exact .of_reset s _

theorem lineDown_banks (l : Line) : BanksRest s (lineDown l s) := by
  have aborted : BanksRest s (abortReception l s) := by
    unfold abortReception
    split
    · exact .of_store rfl
    · exact .of_frame (frameAbort_frame l s)
  unfold lineDown
  dsimp only
  split
  · exact .of_reset s _
  · exact aborted.trans (.of_store (egressDown_reach _ l).store)

theorem receive_banks (l : Line) (sym : Symbol) : BanksRest s (receive l sym s) := by
  obtain e | ⟨p, -, -, -, e⟩ | e | ⟨-, e⟩ | ⟨-, e⟩ := receive_cases s l sym <;> rw [e]
  · exact .of_store rfl
  · exact .of_store rfl
  · exact .of_store (egressUp_reach _ l).store
  · exact lineDown_banks s l
  · exact BanksRest.trans (t := s.setPort l _) (.of_store rfl) (.of_frame (delimit_frame l _ sym))

/-- An act leaves the banks at rest, or it is a WR, a FILL or the end of a copy, which replace the staging bank. -/
theorem act_banks {s t : State} (a : Act s t) : BanksRest s t ∨ Restaged s t := by
  cases a with
  | symbol l sym => exact .inl (receive_banks s l sym)
  | decision p up free => exact .inl (.of_egress (decideOffer_reach s p))
  | completion p x busy => exact .inl (completeLaunch_banks s p x)
  | residence p c => exact .inl (.of_egress (checkHead_reach s p c))
  | release p c due => exact .inl (.of_egress (evaluateOffer_reach s p c))
  | ageing p c due => exact .inl (.of_egress (setLane_reach s p c _))
  | cadence p due => exact .inl (.of_egress (cadenceExpire_reach s p _))
  | take r executing inHand => exact .inl (takeRequest_banks s r)
  | goOn h executing inHand => exact .inl (goOn_banks s h)
  | command i f h means executing inHand => exact command_banks s h means
  | copy begun refilling => exact .inr (copyDone_restaged s)
  | lease i editor due => exact .inl (expireLease_banks s i)

theorem leaves_entriesInv {s t : State} (h : s.EntriesInv) (k : Leaves s t) : t.EntriesInv := by
  have initial : ∀ straps, BanksRest s (powerOnFrom straps s) := fun straps =>
    .inr ⟨straps, fun x => by cases x <;> rfl⟩
  cases k with
  | still => exact h
  | low => exact h.of_rest (initial s.straps)
  | rise straps wasLow => exact h.of_rest (initial straps)
  | act awake a =>
    obtain rest | staged := act_banks a
    · exact h.of_rest rest
    · exact h.of_restaged staged

theorem tick_store : (tick s).store = s.store := by
  unfold tick
  split <;> rfl

/-- Settles O55: each act leaves the banks at rest, starts them afresh, or replaces the staging bank by the active
contents or by a revision that passed its checks. -/
theorem stepKeepsEntriesChecked : Obligations.StepKeepsEntriesChecked := fun _ _ checked stepped =>
  step_leads (pre := State.EntriesInv) (fun _ _ _ h => h) (fun s h => h.of_rest (.of_store (tick_store s)))
    (fun _ _ => leaves_entriesInv) checked stepped

end Sys2Proof.Machine
end

section
/-! SUPPORT. The group map and the flow map as WR and FILL write them and as a frame's judgement reads them (R28, R31).
-/

namespace Sys2Proof.Machine

/-! ## The group map (R28) -/

variable (b : Bank)

theorem write_groupmap (i : Nat) (w : Word) :
    b.write .groupmap i (bytes32 w) = some { b with groupmap := b.groupmap.setIfInBounds i w } := by
  simp only [Bank.write, decodeWord_bytes32, Option.map_some]

theorem fill_groupmap (w : Word) :
    b.fill .groupmap (bytes32 w) = some { b with groupmap := Vector.replicate 64 w } := by
  simp only [Bank.fill, decodeWord_bytes32, Option.map_some]

/-- A written word holds its 32 positions and no other. -/
theorem groupPosition_written (i : Nat) (w : Word) (k : BitVec 11) :
    ({ b with groupmap := b.groupmap.setIfInBounds i w } : Bank).groupPosition k =
      if k.toNat / 32 = i then w.getLsbD (k.toNat % 32) else b.groupPosition k := by
  have word : k.toNat / 32 < 64 := by omega
  unfold Bank.groupPosition
  rw [Vector.getElem_setIfInBounds word]
  by_cases own : k.toNat / 32 = i
  · rw [if_pos own.symm, if_pos own]
  · rw [if_neg (Ne.symm own), if_neg own]

theorem groupPosition_replicate {w : Word} (filled : b.groupmap = Vector.replicate 64 w) (k : BitVec 11) :
    b.groupPosition k = w.getLsbD (k.toNat % 32) := by
  unfold Bank.groupPosition
  simp only [filled, Vector.getElem_replicate]

theorem entryBytes_groupmap {i : Nat} (word : i < 64) : b.entryBytes .groupmap i = bytes32 b.groupmap[i] := by
  simp only [Bank.entryBytes, Vector.getElem?_eq_getElem word, Option.map_some, Option.getD_some]

/-- Settles O48: each word of the group map holds its 32 positions, written, filled, read and at generation 0. -/
theorem groupMapPositionsAreWordBits : Obligations.GroupMapPositionsAreWordBits := by
  intro b i w word
  refine ⟨⟨_, write_groupmap b i w, groupPosition_written b i w⟩,
    ⟨b.groupmap[i], entryBytes_groupmap b word, fun k own => ?_⟩,
    ⟨_, fill_groupmap b w, groupPosition_replicate _ rfl⟩, fun straps k => ?_⟩
  · subst own
    rfl
  · have place : ∀ j < 32, (0xFFFFFFFF#32).getLsbD j = true := by decide
    rw [groupPosition_replicate (Bank.generation0 straps) rfl]
    exact place _ (Nat.mod_lt _ (by omega))

/-! ## The flow map (R31) -/

theorem decodeFlow_class {k : Byte} (cls : k.toNat < 8) : decodeFlow [k] = some ⟨k.toNat, cls⟩ := dif_pos cls

theorem decodeFlow_other {k : Byte} (other : 8 ≤ k.toNat) : decodeFlow [k] = none := dif_neg (by omega)

theorem write_flowmap (i : Nat) {k : Byte} (cls : k.toNat < 8) :
    b.write .flowmap i [k] = some { b with flowmap := b.flowmap.setIfInBounds i ⟨k.toNat, cls⟩ } := by
  simp only [Bank.write, decodeFlow_class cls, Option.map_some]

theorem fill_flowmap {k : Byte} (cls : k.toNat < 8) :
    b.fill .flowmap [k] = some { b with flowmap := Vector.replicate 1024 ⟨k.toNat, cls⟩ } := by
  simp only [Bank.fill, decodeFlow_class cls, Option.map_some]

theorem flowmap_refuses (i : Nat) {k : Byte} (other : 8 ≤ k.toNat) :
    b.write .flowmap i [k] = none ∧ b.fill .flowmap [k] = none := by
  simp only [Bank.write, Bank.fill, decodeFlow_other other, Option.map_none, and_self]

/-- Settles O49: a class byte is the class of the label written, or of every label filled, and no other byte is taken.
-/
theorem flowMapHoldsClassOfLabel : Obligations.FlowMapHoldsClassOfLabel := by
  intro b straps i k f
  refine ⟨fun cls => ⟨⟨_, write_flowmap b i cls, ?_⟩, ⟨_, fill_flowmap b cls, ?_⟩⟩, flowmap_refuses b i, ?_,
    fun bs => rfl⟩
  · have entry : (b.flowmap.setIfInBounds i.val ⟨k.toNat, cls⟩)[f] =
        if i.val = f.val then ⟨k.toNat, cls⟩ else b.flowmap[f] := Vector.getElem_setIfInBounds f.isLt
    rw [entry]
    simp only [Fin.ext_iff, eq_comm]
  · exact Vector.getElem_replicate f.isLt
  · exact Vector.getElem_replicate f.isLt

end Sys2Proof.Machine
end

section
/-! SUPPORT. WR and FILL in the order of their checks: the operand lengths, the table and its index, and the staging
bank that a value past its checks leaves (R23, R24, R149, R171). -/

namespace Sys2Proof.Machine

/-! ## Table codes and operand lengths -/

theorem ofCode_unnamed {code : Byte} (unnamed : code = 0x00#8 ∨ 7 < code.toNat) : TableId.ofCode code = none := by
  have named : ∀ t : TableId, ¬ (t.code = 0x00#8 ∨ 7 < t.code.toNat) := by
    intro t
    cases t <;> decide
  cases found : TableId.ofCode code with
  | none => rfl
  | some t =>
    rw [← code_of_ofCode found] at unnamed
    exact absurd unnamed (named t)

theorem entrySized_unnamed {table : Byte} (unnamed : TableId.ofCode table = none) (entry : List Byte) :
    EntrySized table entry := by
  have other : ∀ t : TableId, table = t.code → False := by
    rintro t rfl
    exact absurd ((ofCode_code t).symm.trans unnamed) (by simp)
  exact ⟨fun e => (other .station e).elim, fun e => (other .groupmap e).elim, fun e => (other .rules e).elim,
    fun e => (other .flowmap e).elim, fun e => (other .classpol e).elim, fun e => (other .portpol e).elim,
    fun e => (other .devpol e).elim⟩

/-- A table of fixed entry size takes entries of that size. -/
theorem entrySized_fixed {t : TableId} {k : Nat} (size : t.fixedSize = some k) (entry : List Byte) :
    EntrySized t.code entry ↔ entry.length = k := by
  cases t with
  | rules => exact absurd size (by simp [TableId.fixedSize])
  | station | groupmap | flowmap | classpol | portpol | devpol =>
    obtain rfl : _ = k := Option.some.inj size
    simp [EntrySized, TableId.code]

/-- A RULES entry has the length that its W byte gives, when there is one from 1 to 16. -/
theorem entrySized_rules (entry : List Byte) :
    EntrySized TableId.rules.code entry ↔
      ∀ w, entry[5]? = some w → 1 ≤ w.toNat → w.toNat ≤ 16 → entry.length = 8 + 2 * w.toNat := by
  simp [EntrySized, TableId.code]

/-- The tables but RULES have a fixed entry size. -/
theorem eq_rules_of_fixedSize {t : TableId} (size : t.fixedSize = none) : t = .rules := by
  cases t with
  | rules => rfl
  | station | groupmap | flowmap | classpol | portpol | devpol => exact absurd size (by simp [TableId.fixedSize])

section

variable (lead : Nat) (rest : List Byte)

theorem entryFormOk_unnamed {table : Byte} (unnamed : TableId.ofCode table = none) :
    entryFormOk lead (table :: rest) = true := by
  simp only [entryFormOk, unnamed]

theorem entryFormOk_fixed {t : TableId} {k : Nat} (size : t.fixedSize = some k) :
    entryFormOk lead (t.code :: rest) = decide (rest.length + 1 = lead + k) := by
  simp only [entryFormOk, ofCode_code, size, List.length_cons]
  rfl

theorem entryFormOk_noWidth (missing : (TableId.rules.code :: rest)[lead + 5]? = none) :
    entryFormOk lead (TableId.rules.code :: rest) = true := by
  simp only [entryFormOk, ofCode_code, TableId.fixedSize, missing]

theorem entryFormOk_width {w : Byte} (width : (TableId.rules.code :: rest)[lead + 5]? = some w) :
    entryFormOk lead (TableId.rules.code :: rest) =
      if 1 ≤ w.toNat ∧ w.toNat ≤ 16 then decide (rest.length + 1 = lead + 8 + 2 * w.toNat) else true := by
  simp only [entryFormOk, ofCode_code, TableId.fixedSize, width, List.length_cons]
  rfl

end

/-- The operands of WR or FILL are a table code, the `gap` bytes of an index or none, and an entry of its table's size.
-/
theorem entryFormOk_iff (table : Byte) (gap entry : List Byte) :
    entryFormOk (1 + gap.length) (table :: (gap ++ entry)) = true ↔ EntrySized table entry := by
  cases found : TableId.ofCode table with
  | none => exact iff_of_true (entryFormOk_unnamed _ _ found) (entrySized_unnamed found entry)
  | some t =>
    obtain rfl := code_of_ofCode found
    cases size : t.fixedSize with
    | some k =>
      rw [entrySized_fixed size, entryFormOk_fixed _ _ size, decide_eq_true_iff, List.length_append]
      omega
    | none =>
      obtain rfl := eq_rules_of_fixedSize size
      have widthByte : (TableId.rules.code :: (gap ++ entry))[1 + gap.length + 5]? = entry[5]? := by
        rw [show 1 + gap.length + 5 = gap.length + 5 + 1 by omega, List.getElem?_cons_succ,
          List.getElem?_append_right (by omega), Nat.add_sub_cancel_left]
      rw [entrySized_rules]
      cases width : entry[5]? with
      | none =>
        exact iff_of_true (entryFormOk_noWidth _ _ (widthByte.trans width)) fun w e => absurd e (by simp)
      | some w =>
        rw [entryFormOk_width _ _ (widthByte.trans width)]
        simp only [Option.some.injEq, forall_eq']
        split
        · rw [decide_eq_true_iff, List.length_append]
          omega
        · rename_i outside
          exact iff_of_true rfl fun least most => absurd ⟨least, most⟩ outside

/-! ## The checks of WR in their order -/

section

variable {h : InHand} {ops : List Byte} {s : State}

theorem exec_wr (running : s.Running h codeWr ops) (editor : s.isEditor h.ctx = true) :
    exec (.wr ops) s = .next (writeEntry ops h s) :=
  congrArg _ ((awake_runCommand s _ running).trans (if_pos editor))

theorem exec_fill (running : s.Running h codeFill ops) (editor : s.isEditor h.ctx = true) :
    exec (.fill ops) s = .next (fillTable ops h s) :=
  congrArg _ ((awake_runCommand s _ running).trans (if_pos editor))

theorem writeEntry_badForm (badForm : entryFormOk 3 ops = false) :
    writeEntry ops h s = finishCommand h .badValue [] s := by
  unfold writeEntry
  rw [badForm]
  rfl

theorem fillTable_badForm (badForm : entryFormOk 1 ops = false) :
    fillTable ops h s = finishCommand h .badValue [] s := by
  unfold fillTable
  rw [badForm]
  rfl

theorem writeEntry_unnamed {table : Byte} {rest : List Byte} (unnamed : TableId.ofCode table = none) :
    writeEntry (table :: rest) h s = finishCommand h .badTable [] s := by
  unfold writeEntry
  rw [entryFormOk_unnamed _ _ unnamed, show byteAt (table :: rest) 0 = table from rfl, unnamed]
  rfl

theorem fillTable_unnamed {table : Byte} {rest : List Byte} (unnamed : TableId.ofCode table = none) :
    fillTable (table :: rest) h s = finishCommand h .badTable [] s := by
  unfold fillTable
  rw [entryFormOk_unnamed _ _ unnamed, show byteAt (table :: rest) 0 = table from rfl, unnamed]
  rfl

/-- A WR of the right form and a known table is judged by its index and its value. -/
theorem writeEntry_judged {table : Byte} {rest : List Byte} {t : TableId}
    (form : entryFormOk 3 (table :: rest) = true) (named : TableId.ofCode table = some t) :
    writeEntry (table :: rest) h s =
      if t.entries ≤ (wrIndex (table :: rest)).toNat then finishCommand h .badIndex [] s
      else finishWrite t (wrIndex (table :: rest)).toNat
        (s.store.stagingBank.write t (wrIndex (table :: rest)).toNat (rest.drop 2)) h s := by
  unfold writeEntry
  rw [form, show byteAt (table :: rest) 0 = table from rfl, named]
  rfl

theorem fillTable_judged {table : Byte} {entry : List Byte} {t : TableId}
    (form : entryFormOk 1 (table :: entry) = true) (named : TableId.ofCode table = some t) :
    fillTable (table :: entry) h s = finishWrite t t.fillFirst (s.store.stagingBank.fill t entry) h s := by
  unfold fillTable
  rw [form, show byteAt (table :: entry) 0 = table from rfl, named]
  rfl

end

/-- The index operand of a WR that holds one. -/
theorem wrIndex_whole (table : Byte) (index : Half) (entry : List Byte) :
    wrIndex ([table] ++ bytes16 index ++ entry) = index := by
  have long : 3 ≤ ([table] ++ bytes16 index ++ entry).length := by
    simp only [List.length_append, List.length_singleton, bytes16_length]
    omega
  rw [wrIndex, if_pos long, List.append_assoc]
  exact halfAt_append [table] entry index

/-- A WR that holds its index is judged by it. -/
theorem writeEntry_whole {h : InHand} {s : State} {t : TableId} {index : Half} {entry : List Byte}
    (form : entryFormOk 3 ([t.code] ++ bytes16 index ++ entry) = true) :
    writeEntry ([t.code] ++ bytes16 index ++ entry) h s =
      if t.entries ≤ index.toNat then finishCommand h .badIndex [] s
      else finishWrite t index.toNat (s.store.stagingBank.write t index.toNat entry) h s := by
  have judged := writeEntry_judged (h := h) (s := s) (rest := bytes16 index ++ entry) form (ofCode_code t)
  rwa [show wrIndex (t.code :: (bytes16 index ++ entry)) = index from wrIndex_whole t.code index entry] at judged

theorem halfOf_toNat (v : Half) : halfOf v.toNat = bytes16 v := by
  rw [halfOf, BitVec.ofNat_toNat, BitVec.setWidth_eq]

theorem finishWrite_refused (t : TableId) (i : Nat) (h : InHand) (s : State) :
    finishWrite t i none h s = finishCommand h .badValue (t.code :: halfOf i) s := rfl

/-- A WR that ends before its index has the right form for no named table but RULES (R171). -/
theorem entryFormOk_short {t : TableId} (notRules : t ≠ .rules) {rest : List Byte} (short : rest.length < 2) :
    entryFormOk 3 (t.code :: rest) = false := by
  cases size : t.fixedSize with
  | some k =>
    rw [entryFormOk_fixed _ _ size]
    exact decide_eq_false (by omega)
  | none => exact absurd (eq_rules_of_fixedSize size) notRules

/-- A RULES write that ends before its index is judged by the free index (log 13), and has no value to write. -/
theorem writeEntry_short (h : InHand) (s : State) {rest : List Byte} (short : rest.length < 2) :
    writeEntry (0x03#8 :: rest) h s =
      if 8 ≤ (wrIndex (0x03#8 :: rest)).toNat then finishCommand h .badIndex [] s
      else finishCommand h .badValue (0x03#8 :: bytes16 (wrIndex (0x03#8 :: rest))) s := by
  have form : entryFormOk 3 (0x03#8 :: rest) = true :=
    entryFormOk_noWidth 3 rest (List.getElem?_eq_none (by simp only [List.length_cons]; omega))
  have noValue : rest.drop 2 = [] := List.drop_eq_nil_of_le (by omega)
  rw [writeEntry_judged form (t := .rules) rfl, noValue]
  rw [show s.store.stagingBank.write .rules (wrIndex (0x03#8 :: rest)).toNat [] = none from rfl, finishWrite_refused,
    halfOf_toNat]
  rfl

/-! ## The staging bank replaced -/

/-- R40, R44: a new staging bank leaves the active bank, the selector, the generation and the phase, and marks staging
DIRTY. -/
theorem stage_store (b : Bank) (s : State) :
    stage b s = { s with store := (stage b s).store } ∧ (stage b s).store.stagingBank = b ∧
      (stage b s).store.activeBank = s.store.activeBank ∧ (stage b s).store.dirty = true ∧
      (stage b s).store.active = s.store.active ∧ (stage b s).store.generation = s.store.generation ∧
      (stage b s).store.phase = s.store.phase :=
  ⟨rfl, setStaging_stagingBank s.store b, setStaging_activeBank s.store b, rfl, setStaging_active s.store b,
    setStaging_generation s.store b, setStaging_phase s.store b⟩

/-- Settles O37: the codes and sizes of the tables, the operand lengths, and WR in the order of its checks. -/
theorem writeReplacesStagingEntry : Obligations.WriteReplacesStagingEntry := by
  refine ⟨rfl, fun _ => ofCode_unnamed, rfl, fun h ops s running editor => ⟨?_, ?_⟩,
    fun h table index entry s => ⟨entryFormOk_iff table (bytes16 index) entry, fun running editor => ?_⟩⟩
  · rintro rfl
    rw [exec_wr running editor, writeEntry_badForm rfl]
  · rintro table rest rfl short
    rw [exec_wr running editor]
    refine ⟨fun unnamed => ?_, fun named notRules => ?_, ?_⟩
    · rw [writeEntry_unnamed unnamed]
    · obtain ⟨t, named⟩ := Option.ne_none_iff_exists'.1 named
      obtain rfl := code_of_ofCode named
      rw [writeEntry_badForm (entryFormOk_short (fun e => notRules (by rw [e]; rfl)) short)]
    · rintro rfl
      exact ⟨_, congrArg _ (writeEntry_short h s short)⟩
  · rw [exec_wr running editor]
    refine ⟨fun badForm => by rw [writeEntry_badForm badForm], fun unnamed => congrArg _ (writeEntry_unnamed unnamed),
      fun t named form => ?_⟩
    obtain rfl := code_of_ofCode named
    rw [writeEntry_whole form]
    refine ⟨fun outside => by rw [if_pos outside], fun inside => ?_⟩
    rw [if_neg (by omega)]
    refine ⟨fun refused => ?_, fun b written => ?_⟩
    · rw [refused, finishWrite_refused, halfOf_toNat]
    · rw [written]
      exact ⟨stage b s, rfl, stage_store b s⟩

end Sys2Proof.Machine
end

section
/-! SUPPORT. FILL as WR of one value to every entry that it covers: the refusals of the first entry covered, the entries
afterwards, and what a FILL leaves (R24). -/

namespace Sys2Proof.Machine

variable {b b' : Bank} {t : TableId} {bs : List Byte}

/-- FILL of STATION leaves entry 0, and so begins at entry 1; every other FILL begins at entry 0. -/
theorem fillFirst_eq (t : TableId) : t.fillFirst = if t = .station then 1 else 0 := by cases t <;> rfl

/-- A FILL is refused exactly when a WR of its value to the first entry that it covers is. -/
theorem fill_eq_none_iff : b.fill t bs = none ↔ b.write t t.fillFirst bs = none := by
  cases t with
  | station =>
    have listed : (fun e : StationEntry => e.okAt 1) = StationEntry.okListed := funext fun e => okAt_listed e (by omega)
    simp only [Bank.fill, Bank.write, TableId.fillFirst, listed, Option.map_eq_none_iff]
  | groupmap | rules | flowmap | classpol | portpol | devpol =>
    simp only [Bank.fill, Bank.write, Option.map_eq_none_iff]

theorem setIfInBounds_replicate {α : Type} (n i : Nat) (e : α) :
    (Vector.replicate n e).setIfInBounds i e = Vector.replicate n e :=
  setIfInBounds_eq_self fun inside => Vector.getElem_replicate inside

/-- Every covered entry of a filled table holds the value: writing it there again changes nothing. -/
theorem write_of_fill (filled : b.fill t bs = some b') {i : Nat} (first : t.fillFirst ≤ i) (inside : i < t.entries) :
    b'.write t i bs = some b' := by
  cases t with
  | station =>
    obtain ⟨e, passed, rfl⟩ := Option.map_eq_some_iff.1 filled
    obtain ⟨decoded, listed⟩ := checked_eq_some.1 passed
    have pastIdentity : 1 ≤ i := first
    have written : checked (·.okAt i) (decodeStation bs) = some e :=
      checked_eq_some.2 ⟨decoded, (okAt_listed e first).trans listed⟩
    have stands : ∀ kept, ((Vector.replicate 32 e).set 0 kept).setIfInBounds i e = (Vector.replicate 32 e).set 0 kept :=
      fun kept => setIfInBounds_eq_self fun inside => (getElem_filledStation kept e inside).trans (if_neg (by omega))
    simp only [Bank.write, written, Option.map_some, stands]
  | groupmap | flowmap =>
    obtain ⟨e, decoded, rfl⟩ := Option.map_eq_some_iff.1 filled
    simp only [Bank.write, decoded, Option.map_some, setIfInBounds_replicate]
  | rules | classpol =>
    obtain ⟨e, passed, rfl⟩ := Option.map_eq_some_iff.1 filled
    simp only [Bank.write, passed, Option.map_some, setIfInBounds_replicate]
  | portpol =>
    obtain ⟨e, passed, rfl⟩ := Option.map_eq_some_iff.1 filled
    have stands : ∀ l, (PerLine.mk e e).set l e = PerLine.mk e e := fun l => by cases l <;> rfl
    simp only [Bank.write, passed, Option.map_some, stands]
  | devpol =>
    obtain ⟨e, passed, rfl⟩ := Option.map_eq_some_iff.1 filled
    simp only [Bank.write, passed, Option.map_some]

/-- A FILL replaces the one field of the bank that holds its table, so the entries of the other tables stay. -/
theorem entryBytes_of_fill (filled : b.fill t bs = some b') {t' : TableId} (other : t' ≠ t) (i : Nat) :
    b'.entryBytes t' i = b.entryBytes t' i := by
  cases t with
  | station | groupmap | rules | flowmap | classpol | portpol | devpol =>
    obtain ⟨e, -, rfl⟩ := Option.map_eq_some_iff.1 filled
    cases t' <;> simp [Bank.entryBytes] at other ⊢

/-- A FILL leaves STATION entry 0, the identity (R25). -/
theorem station0_of_fill (filled : b.fill t bs = some b') : b'.station[(0 : Fin 32)] = b.station[(0 : Fin 32)] := by
  cases t with
  | station =>
    obtain ⟨e, -, rfl⟩ := Option.map_eq_some_iff.1 filled
    exact getElem_filledStation _ e (by omega)
  | groupmap | rules | flowmap | classpol | portpol | devpol =>
    obtain ⟨e, -, rfl⟩ := Option.map_eq_some_iff.1 filled
    rfl

/-- Settles O38: the operand lengths, and FILL in the order of its checks. -/
theorem fillReplacesStagingTable : Obligations.FillReplacesStagingTable := by
  refine ⟨fun h s running editor => ?_, fun h table entry s =>
    ⟨entryFormOk_iff table [] entry, fun running editor => ?_⟩⟩
  · rw [exec_fill running editor, fillTable_badForm rfl]
  · rw [exec_fill running editor]
    refine ⟨fun badForm => by rw [fillTable_badForm badForm], fun unnamed => congrArg _ (fillTable_unnamed unnamed),
      fun t named form => ?_⟩
    obtain rfl := code_of_ofCode named
    have judged : fillTable ([t.code] ++ entry) h s =
        finishWrite t t.fillFirst (s.store.stagingBank.fill t entry) h s := fillTable_judged form named
    rw [judged, ← fillFirst_eq]
    dsimp only
    refine ⟨fun refused => ?_, fun taken => ?_⟩
    · rw [fill_eq_none_iff.2 refused, finishWrite_refused]
    · obtain ⟨b, filled⟩ := Option.ne_none_iff_exists'.1 (mt fill_eq_none_iff.1 taken)
      rw [filled]
      obtain ⟨reach, staged, active⟩ := stage_store b s
      refine ⟨stage b s, rfl, reach, ?_, ?_, ?_, active⟩ <;> rw [staged]
      · exact fun i first inside => write_of_fill filled first inside
      · exact fun t' other i => entryBytes_of_fill filled other i
      · exact station0_of_fill filled

end Sys2Proof.Machine
end

section
/-! SUPPORT. What a command does to the table store and the straps: the phase stands but for the moves of a
classification, a copy begins or ends, the staging bank is written, the banks flip, or a reset takes effect. -/

namespace Sys2Proof.Machine

/-- From `s` to `t` the straps stand, and so does the table store but for its phase, which neither enters nor leaves
STEADY. -/
def StoreRests (s t : State) : Prop :=
  t.straps = s.straps ∧
    ∃ ph, t.store = { s.store with phase := ph } ∧ (ph = .steady ↔ s.store.phase = .steady)

namespace StoreRests

variable {s t u : State}

theorem of_eq (straps : t.straps = s.straps) (store : t.store = s.store) : StoreRests s t :=
  ⟨straps, s.store.phase, store, .rfl⟩

theorem refl (s : State) : StoreRests s s := .of_eq rfl rfl

theorem trans (h : StoreRests s t) (k : StoreRests t u) : StoreRests s u := by
  obtain ⟨straps, ph, store, steady⟩ := h
  obtain ⟨straps', ph', store', steady'⟩ := k
  refine ⟨straps'.trans straps, ph', by rw [store', store], steady'.trans ?_⟩
  rw [store]
  exact steady

theorem of_egress {p : Line} (h : EgressReach p s t) : StoreRests s t := .of_eq h.straps h.store

theorem finished (s : State) (h : InHand) (st : Status) (d : List Byte) : StoreRests s (finishCommand h st d s) :=
  .of_eq rfl rfl

end StoreRests

variable (s : State) (l : Line)

/-! ## Reception -/

/-- R51, R52: the end of a classification neither enters nor leaves STEADY. -/
theorem phaseLeaving_steady : s.phaseLeaving l = .steady ↔ s.store.phase = .steady := by
  unfold State.phaseLeaving
  rcases s.store.phase with _ | m | begun
  · simp
  · dsimp only
    split <;> simp
  · simp

theorem leaveClassification_rests : StoreRests s (leaveClassification l s) := by
  rw [leaveClassification_eq]
  exact ⟨rfl, _, rfl, phaseLeaving_steady s l⟩

theorem phaseEnding_steady : s.phaseEnding l = .steady ↔ s.store.phase = .steady := by
  unfold State.phaseEnding
  split
  · exact phaseLeaving_steady s l
  · exact .rfl

theorem classifierHeader_rests (f : HeaderFacts) : StoreRests s (classifierHeader l f s) := by
  obtain ⟨r, k, drop, counts⟩ | kept := judgeHeader_cases (s.store.bank (s.cls.get l).bank).identity f
  · rw [classifierHeader_drop s l f drop counts]
    exact ⟨rfl, _, rfl, phaseLeaving_steady s l⟩
  · rw [classifierHeader_kept s l f kept]
    exact .of_eq rfl rfl

theorem inspectPending_rests (f : HeaderFacts) (window : List Byte) : StoreRests s (inspectPending l f window s) := by
  rw [inspectPending_eq]
  obtain ⟨_, _, _, _, _, _, applied⟩ := applyJudgement_shape s l f
    ((s.store.bank (s.cls.get l).bank).judge l f window) (judge_decided _ _ _ _)
  obtain ⟨-, -, captured⟩ := capturing_effects
    (applyJudgement l f ((s.store.bank (s.cls.get l).bank).judge l f window) s) l f window
    ((s.store.bank (s.cls.get l).bank).judge l f window).trigger
  rw [captured, applied]
  exact .of_eq rfl rfl

theorem classifierInspect_rests (window : List Byte) : StoreRests s (classifierInspect l window s) := by
  unfold classifierInspect
  dsimp only
  refine .trans ?_ (leaveClassification_rests _ l)
  split
  · exact .of_eq rfl rfl
  · exact inspectPending_rests s l _ window
  · exact .refl s

theorem inspectionComplete_rests : StoreRests s (inspectionComplete l s) :=
  .trans (classifierInspect_rests s l _) (.of_eq rfl rfl)

theorem frameByte_rests (b : Byte) (bad : Bool) : StoreRests s (frameByte l b bad s) := by
  have pushed : StoreRests s (s.withFrameByte l b bad) := .of_eq rfl rfl
  rw [frameByte_eq]
  split
  · exact pushed.trans (.trans (classifierHeader_rests _ l _) (.of_eq rfl rfl))
  · split
    · exact pushed.trans (inspectionComplete_rests _ l)
    · exact pushed

theorem frameAbort_rests : StoreRests s (frameAbort l s) := by
  rw [frameAbort_eq]
  exact ⟨rfl, _, rfl, phaseEnding_steady s l⟩

theorem queueEntry_rests (d : Descriptor) (bytes : List Byte) : StoreRests s (queueEntry l d bytes s) := by
  rw [queueEntry_eq]
  split
  · obtain ⟨_, _, _, _, _, shape⟩ := newHead_shape (s.joined l d bytes) l.opposite d.cls
    rw [shape]
    exact .of_eq rfl rfl
  · exact .of_eq rfl rfl

theorem endUnmarked_rests (v : EndVerdict) (bytes : List Byte) : StoreRests s (endUnmarked l v bytes s) := by
  unfold endUnmarked
  dsimp only
  split
  · split
    · exact .trans (.of_eq rfl rfl) (queueEntry_rests (s.setCls l _) l _ bytes)
    · exact .refl s
    · rw [dropReservation_giveBack]
      exact .of_eq rfl rfl
  · split
    · obtain ⟨_, _, shape⟩ := offerRequest_shape s l bytes
      rw [shape]
      exact .of_eq rfl rfl
    · exact .of_eq rfl rfl
    · exact .of_eq rfl rfl
  · exact .of_eq rfl rfl
  · exact .refl s
  · exact .refl s

theorem holdSlot_rests : StoreRests s (holdSlot l s) := by
  obtain ⟨_, _, _, _, _, shape⟩ := holdSlot_shape s l
  rw [shape]
  exact .of_eq rfl rfl

theorem classifierEnd_rests (v : EndVerdict) (bytes : List Byte) : StoreRests s (classifierEnd l v bytes s) := by
  cases marked : (s.cls.get l).resetMark with
  | true =>
    rw [classifierEnd_marked s l marked]
    exact ⟨rfl, _, rfl, phaseEnding_steady s l⟩
  | false =>
    have left : StoreRests s (leaveIfJudging l s) := by
      rw [leaveIfJudging_eq]
      exact ⟨rfl, _, rfl, phaseEnding_steady s l⟩
    have ended := left.trans (endUnmarked_rests _ l v bytes)
    by_cases good : v = .good
    · subst good
      rw [classifierEnd_good s l marked]
      exact ended.trans (.trans (holdSlot_rests _ l) (.of_eq rfl rfl))
    · rw [classifierEnd_failed s l marked good, dropSlot_eq]
      exact ended.trans (.of_eq rfl rfl)

theorem frameEnd_rests : StoreRests s (frameEnd l s) := by
  by_cases inspect : (s.port.get l).rx.state = .inspect
  · rw [frameEnd_inspect s l inspect]
    exact (inspectionComplete_rests s l).trans (.trans (.of_eq rfl rfl) (classifierEnd_rests _ l _ _))
  · rw [frameEnd_eq s l inspect]
    exact .trans (.of_eq rfl rfl) (classifierEnd_rests _ l _ _)

theorem delimit_rests (sym : Symbol) : StoreRests s (delimit l sym s) := by
  obtain ⟨-, e | e⟩ | ⟨-, ⟨b, bad, e⟩ | e | e | e⟩ := delimit_cases s l sym <;> rw [e]
  · exact .refl s
  · exact .of_eq rfl rfl
  · exact frameByte_rests s l b bad
  · exact frameEnd_rests s l
  · exact frameAbort_rests s l
  · exact (frameAbort_rests s l).trans (.of_eq rfl rfl)


/-! ## The moves of the table store -/

/-- The commands that can bring a power-on or a FULL reset (R7, R20, R159). -/
def BringsReset (c : Instr) : Prop :=
  c = .resetnAssert ∨ (∃ straps, c = .resetnRelease straps) ∨ (∃ l, c = .launchCompletion l) ∨ c = .requestTake ∨
    ∃ l, c = .symbolReceived l .invalid

/-- What command `c` does to the table store and the straps, from `s` to `t`. -/
inductive StoreMove (c : Instr) (s t : State) : Prop
  | rests (h : StoreRests s t)
  | copying (dirty : s.store.dirty = true) (straps : t.straps = s.straps)
      (store : t.store = { s.store with phase := .refilling s.timebase })
  | staged (b : Bank) (straps : t.straps = s.straps) (store : t.store = { s.store.setStaging b with dirty := true })
  | copied (straps : t.straps = s.straps)
      (store : t.store = { s.store.setStaging s.store.activeBank with phase := .steady, dirty := false })
  | flipped (ops : List Byte) (commit : c = .commit ops) (dirty : s.store.dirty = true) (ph : Phase)
      (adopts : ph ≠ .steady)
      (store : t.store =
        { s.store with
          active := s.store.active.other, generation := nextGeneration s.store.generation, phase := ph })
  | reset (brings : BringsReset c) (store : t.store = TableStore.powerOn t.straps) (time : t.timebase = 0)
      (free : ∀ p, (t.tx.get p).launch = none)

namespace StoreMove

variable {s} {c : Instr} {t : State}

theorem of_eq (straps : t.straps = s.straps) (store : t.store = s.store) : StoreMove c s t :=
  .rests (.of_eq straps store)

theorem of_egress {p : Line} (h : EgressReach p s t) : StoreMove c s t := .rests (.of_egress h)

theorem finished (h : InHand) (st : Status) (d : List Byte) : StoreMove c s (finishCommand h st d s) :=
  .rests (.finished s h st d)

/-- A reset with the launches cut, whatever the straps and the level of RESETn. -/
theorem of_powerOn (brings : BringsReset c) (straps : BitVec 6) (u : State) (low : Bool) :
    StoreMove c s { powerOnFrom straps u with resetLow := low } :=
  .reset brings rfl rfl fun p => by cases p <;> exact cut_launch _

end StoreMove

/-! ## Symbols and launches -/

/-- From `s` to `t` the table store rests, or a FULL reset has taken effect (R159). -/
def RestsOrResets (s t : State) : Prop := StoreRests s t ∨ ∃ u, t = fullReset u

namespace RestsOrResets

variable {s} {t u : State}

theorem of_eq (straps : t.straps = s.straps) (store : t.store = s.store) : RestsOrResets s t :=
  .inl (.of_eq straps store)

theorem after (h : StoreRests s t) (k : RestsOrResets t u) : RestsOrResets s u := k.imp_left h.trans

theorem move {c : Instr} (h : RestsOrResets s t) (brings : BringsReset c) : StoreMove c s t := by
  obtain rests | ⟨u, rfl⟩ := h
  · exact .rests rests
  · exact .of_powerOn brings u.straps u u.resetLow

end RestsOrResets

theorem lineDown_rests : RestsOrResets s (lineDown l s) := by
  rw [lineDown_eq]
  split
  · exact .inr ⟨_, rfl⟩
  · refine .inl (StoreRests.trans (t := s.lineClosed l) ?_ (.of_egress (egressDown_reach _ l)))
    refine StoreRests.trans (t := abortReception l s) ?_ (.of_eq rfl rfl)
    unfold abortReception
    split
    · exact .refl s
    · exact frameAbort_rests s l

/-- R4, R159: of the symbols only an invalid one takes a line down, and with it brings a reset. -/
theorem receive_move (sym : Symbol) : StoreMove (.symbolReceived l sym) s (receive l sym s) := by
  have delimited : ∀ p, StoreMove (.symbolReceived l sym) s (delimit l sym (s.setPort l p)) := fun p =>
    .rests (StoreRests.trans (t := s.setPort l p) (.of_eq rfl rfl) (delimit_rests _ l sym))
  obtain e | ⟨p, -, -, -, e⟩ | e | ⟨up, e⟩ | ⟨-, e⟩ := receive_cases s l sym
  · rw [e]
    exact .of_eq rfl rfl
  · rw [e]
    exact .of_eq rfl rfl
  · rw [e]
    exact .rests (StoreRests.trans (t := s.setPort l _) (.of_eq rfl rfl) (.of_egress (egressUp_reach _ l)))
  · by_cases invalid : sym = .invalid
    · subst invalid
      rw [e]
      exact (lineDown_rests s l).move (.inr (.inr (.inr (.inr ⟨l, rfl⟩))))
    · rw [receive_up s l sym up (.inl invalid)]
      exact delimited _
  · rw [e]
    exact delimited _

theorem completeLaunch_rests (p : Line) (x : Launch) : RestsOrResets s (completeLaunch p x s) := by
  cases awaited : x.source.awaited with
  | false => exact .inl (.of_egress (completeLaunch_reach s p x awaited))
  | true =>
    unfold completeLaunch
    simp only [awaited, if_true]
    exact .inr ⟨_, rfl⟩

/-! ## Requests -/

theorem sendReply_rests (line : Line) (frame : List Byte) (awaited : Bool) :
    StoreRests s (sendReply line frame awaited s) := .of_egress (enqueue_reach s .n _ _)

theorem answer_rests (status : Byte) (h : InHand) : RestsOrResets s (answer status h s) := by
  unfold answer
  dsimp only
  split
  · exact .inl (sendReply_rests (s.setContext _ _) _ _ _)
  · split
    · exact .inl (sendReply_rests (s.setContext _ _) _ _ _)
    · exact .inr ⟨_, rfl⟩

theorem beginRequest_rests (i : Fin 4) (r : Request) : RestsOrResets s (beginRequest i r s) := by
  unfold beginRequest
  dsimp only
  split
  · exact .of_eq rfl rfl
  · exact .after (t := onRole i (Role.renew s.timebase) s) (.of_eq rfl rfl) (answer_rests _ _ _)

theorem judgeRequest_rests (i : Fin 4) (k : Context) (r : Request) : RestsOrResets s (judgeRequest i k r s) := by
  unfold judgeRequest
  split
  · exact .after (t := s.setContext i _) (.of_eq rfl rfl) (beginRequest_rests _ i r)
  · unfold replay
    dsimp only
    split
    · exact .inl (sendReply_rests (onRole i (Role.renew s.timebase) s) _ _ _)
    · exact .of_eq rfl rfl
  · exact .inl (sendReply_rests s _ _ _)

theorem takeRequest_rests (r : Request) : RestsOrResets s (takeRequest r s) := by
  unfold takeRequest
  dsimp only
  split
  · split
    · exact .after (t := touch _ s) (.of_eq rfl rfl) (judgeRequest_rests _ _ _ r)
    · exact .of_eq rfl rfl
  · split
    · exact .after (t := touch _ (s.setContext _ _)) (.of_eq rfl rfl) (beginRequest_rests _ _ r)
    · exact .of_eq rfl rfl

theorem goOn_rests (h : InHand) : RestsOrResets s (goOn h s) := by
  unfold goOn
  split
  · exact answer_rests s _ h
  · split <;> exact .of_eq rfl rfl

/-! ## The end of a copy, the end of a lease -/

variable {c : Instr}

theorem expireLease_move (i : Fin 4) : StoreMove c s (expireLease i s) := by
  have noticed : ∀ u, EgressReach .n u (notify (.leaseExpired i) s.timebase u) := fun u => notify_reach u .n _ _
  unfold expireLease
  dsimp only
  split
  · rename_i dirty
    exact .copying dirty (noticed _).straps (noticed _).store
  · exact .of_eq (noticed _).straps (noticed _).store

theorem copyDone_move : StoreMove c s (copyDone s) := by
  unfold copyDone
  split
  · obtain ⟨_, _, shape⟩ := endWait_shape (finishCopy s) ‹_›
    rw [shape]
    exact .copied rfl rfl
  · exact .copied rfl rfl

/-! ## Commands of a request -/

variable (h : InHand)

theorem openWith_move (length : Half) : StoreMove c s (openWith length h s) := by
  unfold openWith
  split
  · exact .finished h _ _
  · split <;> split <;> exact .of_eq rfl rfl

theorem closeNow_move : StoreMove c s (closeNow h s) := by
  unfold closeNow
  split
  · exact .copying ‹_› rfl rfl
  · exact .of_eq rfl rfl

theorem revertNow_move : StoreMove c s (revertNow h s) := by
  unfold revertNow
  split
  · exact .copying ‹_› rfl rfl
  · exact .finished h _ _

theorem readTable_move (ops : List Byte) : StoreMove c s (readTable ops h s) := by
  unfold readTable
  dsimp only
  split
  · exact .finished h _ _
  · split
    · exact .finished h _ _
    · split
      · exact .finished h _ _
      · split
        · exact .finished h _ _
        · split <;> exact .finished h _ _

theorem finishWrite_move (t : TableId) (i : Nat) (b : Option Bank) : StoreMove c s (finishWrite t i b h s) := by
  cases b with
  | none => exact .finished h _ _
  | some b => exact .staged b rfl rfl

theorem writeEntry_move (ops : List Byte) : StoreMove c s (writeEntry ops h s) := by
  unfold writeEntry
  dsimp only
  split
  · exact .finished h _ _
  · split
    · exact .finished h _ _
    · split
      · exact .finished h _ _
      · exact finishWrite_move s h _ _ _

theorem fillTable_move (ops : List Byte) : StoreMove c s (fillTable ops h s) := by
  unfold fillTable
  split
  · exact .finished h _ _
  · split
    · exact .finished h _ _
    · exact finishWrite_move s h _ _ _

theorem statNow_move (ops : List Byte) : StoreMove c s (statNow ops h s) := by
  unfold statNow
  split
  · exact .finished h _ _
  · split
    · exact .finished h _ _
    · exact .finished h _ _
    · unfold readCounters
      dsimp only
      split <;> exact .of_eq rfl rfl

theorem freeNow_move (ops : List Byte) : StoreMove c s (freeNow ops h s) := by
  unfold freeNow
  split
  · exact .finished h _ _
  · split <;> exact .of_eq rfl rfl

theorem captNow_move (ops : List Byte) : StoreMove c s (captNow ops h s) := by
  unfold captNow
  split <;> exact .finished h _ _

theorem queryNow_move : StoreMove c s (queryNow h s) := by
  unfold queryNow
  dsimp only
  split
  · split <;> exact .of_eq rfl rfl
  · exact .finished h _ _

theorem trafficReset_rests : StoreRests s (trafficReset s) :=
  .of_eq ((clearEgress_reach _ .s).straps.trans (clearEgress_reach _ .n).straps) (trafficReset_store s)

theorem clearTraffic_move : StoreMove c s (clearTraffic h s) :=
  .rests ((trafficReset_rests s).trans (.finished _ h _ _))

/-! ## The flip -/

/-- R48: the phase that a flip enters. -/
def State.flipPhase (s : State) : Phase :=
  if s.flipMarks.n && s.flipMarks.s then .refilling s.timebase else .adopting s.flipMarks

theorem flipPhase_ne_steady : s.flipPhase ≠ .steady := by
  unfold State.flipPhase
  split <;> simp

/-- R39, R48: the flip in the table store, and nothing else. -/
theorem flipStore_eq :
    flipStore s =
      { s with
        store :=
          { s.store with
            active := s.store.active.other, generation := nextGeneration s.store.generation
            phase := s.flipPhase } } := by
  unfold flipStore State.flipPhase
  dsimp only
  split <;> rfl

/-- The flip writes the table store, the egress sides of the lines and the count of free choices. -/
theorem flip_shape :
    flip s =
      { s with
        store := (flipStore s).store, pool := (flip s).pool, queues := (flip s).queues, pacer := (flip s).pacer
        cadence := (flip s).cadence, service := (flip s).service, tx := (flip s).tx, offers := (flip s).offers
        noticeSeq := (flip s).noticeSeq, counters := (flip s).counters, choices := (flip s).choices } := by
  have acts := flipActs_rest s (flipOrder s.choices flipAll) (flipStore s)
  have flipped := flip_eq s
  have stored := flipStore_eq s
  generalize flipActs s (flipOrder s.choices flipAll) (flipStore s) = u at acts flipped
  rw [flipped, acts, stored]

theorem commitNow_move (ops : List Byte) : StoreMove (.commit ops) s (commitNow h s) := by
  unfold commitNow
  split
  · exact .finished h _ _
  · rename_i dirty
    split
    · refine .flipped ops rfl (by simpa using dirty) s.flipPhase (flipPhase_ne_steady s) ?_
      show (flip s).store = _
      rw [flip_shape, flipStore_eq]
    · exact .finished h _ _

/-! ## Every command -/

theorem editorForm_move {ops : List Byte} {n : Nat} {f : InHand → State → State} (judged : StoreMove c s (f h s)) :
    StoreMove c s (editorOnly (withForm n ops f) h s) :=
  editorOnly_leads s h (.finished h _ _) (withForm_leads s h (.finished h _ _) judged)

theorem command_move {i : Instr} {f : InHand → State → State} (means : commandMeaning i = some f) :
    StoreMove i s (f h s) := by
  cases i with
  | openSession ops =>
    obtain rfl := Option.some.inj means
    exact withForm_leads s h (.finished h _ _) (openWith_move s h _)
  | closeSession ops =>
    obtain rfl := Option.some.inj means
    exact editorForm_move s h (closeNow_move s h)
  | rd ops =>
    obtain rfl := Option.some.inj means
    exact withForm_leads s h (.finished h _ _) (readTable_move s h ops)
  | wr ops =>
    obtain rfl := Option.some.inj means
    exact editorOnly_leads s h (.finished h _ _) (writeEntry_move s h ops)
  | fill ops =>
    obtain rfl := Option.some.inj means
    exact editorOnly_leads s h (.finished h _ _) (fillTable_move s h ops)
  | commit ops =>
    obtain rfl := Option.some.inj means
    exact editorForm_move s h (commitNow_move s h ops)
  | revert ops =>
    obtain rfl := Option.some.inj means
    exact editorForm_move s h (revertNow_move s h)
  | stat ops =>
    obtain rfl := Option.some.inj means
    exact withForm_leads s h (.finished h _ _) (statNow_move s h ops)
  | capt ops =>
    obtain rfl := Option.some.inj means
    exact withForm_leads s h (.finished h _ _) (captNow_move s h ops)
  | free ops =>
    obtain rfl := Option.some.inj means
    exact withForm_leads s h (.finished h _ _) (freeNow_move s h ops)
  | query ops =>
    obtain rfl := Option.some.inj means
    exact withForm_leads s h (.finished h _ _) (queryNow_move s h)
  | resetCounters =>
    obtain rfl := Option.some.inj means
    exact .of_eq rfl rfl
  | resetTraffic =>
    obtain rfl := Option.some.inj means
    exact clearTraffic_move s h
  | resetFull =>
    obtain rfl := Option.some.inj means
    exact .of_eq rfl rfl
  | resetnAssert | resetnRelease _ | symbolReceived _ _ | egressDecision _ | launchCompletion _ | residenceExpiry _ _
  | windowRelease _ _ | ageingEvent _ _ | cadenceExpiry _ | requestTake | copyBackCompletion | leaseExpiry =>
    exact absurd means (by simp [commandMeaning])

/-- What an awake part does to the table store, every command does. -/
theorem awake_move {f : State → State} (moves : StoreMove c s (f s)) : StoreMove c s (awake f s) := by
  unfold awake
  split
  · exact .of_eq rfl rfl
  · exact moves

theorem exec_command_move {i : Instr} {f : InHand → State → State} (means : commandMeaning i = some f) {t : State}
    (next : exec i s = .next t) : StoreMove i s t := by
  obtain ⟨code, ops, e⟩ := exec_command means s
  obtain rfl := Host.Outcome.next.inj (e.symm.trans next)
  refine awake_move s ?_
  obtain k | ⟨h, -, -, -, k⟩ := runCommand_cases s code ops f <;> rw [k]
  · exact .of_eq rfl rfl
  · exact command_move s h means

theorem exec_move {i : Instr} {t : State} (next : exec i s = .next t) : StoreMove i s t := by
  have still : StoreMove i s s := .of_eq rfl rfl
  cases i with
  | resetnAssert =>
    obtain rfl := Host.Outcome.next.inj next
    exact .of_powerOn (.inl rfl) _ _ _
  | resetnRelease straps =>
    obtain rfl := Host.Outcome.next.inj next
    split
    · exact .of_powerOn (.inr (.inl ⟨straps, rfl⟩)) straps s false
    · exact still
  | symbolReceived l sym =>
    obtain rfl := Host.Outcome.next.inj next
    exact awake_move s (receive_move s l sym)
  | egressDecision p =>
    obtain rfl := Host.Outcome.next.inj next
    refine awake_move s ?_
    split
    · exact .of_egress (decideOffer_reach s p)
    · exact still
  | launchCompletion p =>
    obtain rfl := Host.Outcome.next.inj next
    refine awake_move s ?_
    split
    · exact (completeLaunch_rests s p _).move (.inr (.inr (.inl ⟨p, rfl⟩)))
    · exact still
  | residenceExpiry p k =>
    obtain rfl := Host.Outcome.next.inj next
    exact awake_move s (.of_egress (checkHead_reach s p k))
  | windowRelease p k =>
    obtain rfl := Host.Outcome.next.inj next
    refine awake_move s ?_
    split
    · exact .of_egress (evaluateOffer_reach s p k)
    · exact still
  | ageingEvent p k =>
    obtain rfl := Host.Outcome.next.inj next
    refine awake_move s ?_
    dsimp only
    split
    · exact .of_egress (setLane_reach s p k _)
    · exact still
  | cadenceExpiry p =>
    obtain rfl := Host.Outcome.next.inj next
    refine awake_move s ?_
    split
    · split
      · exact .of_egress (cadenceExpire_reach s p _)
      · exact still
    · exact still
  | requestTake =>
    obtain rfl := Host.Outcome.next.inj next
    have brings : BringsReset .requestTake := .inr (.inr (.inr (.inl rfl)))
    refine awake_move s ?_
    split
    · exact (takeRequest_rests s _).move brings
    · exact (goOn_rests s _).move brings
    · exact still
  | copyBackCompletion =>
    obtain rfl := Host.Outcome.next.inj next
    refine awake_move s ?_
    split
    · exact copyDone_move s
    · exact still
    · exact still
  | leaseExpiry =>
    obtain rfl := Host.Outcome.next.inj next
    refine awake_move s ?_
    split
    · split
      · exact expireLease_move s _
      · exact still
    · exact still
  | openSession ops | closeSession ops | rd ops | wr ops | fill ops | commit ops | revert ops | stat ops | capt ops
  | free ops | query ops | resetCounters | resetTraffic | resetFull =>
    exact exec_command_move s rfl next

/-! ## What every step keeps of the table store -/

theorem StoreMove.storeInv {t : State} (moved : StoreMove c s t) (inv : s.StoreInv) : t.StoreInv := by
  obtain ⟨clean, dirties⟩ := inv
  unfold State.StoreInv
  cases moved with
  | rests h =>
    obtain ⟨-, ph, store, steady⟩ := h
    rw [store]
    exact ⟨fun e => clean (steady.1 e), fun e => dirties (mt steady.2 e)⟩
  | copying dirty straps store =>
    rw [store]
    exact ⟨fun e => absurd e (by simp), fun _ => dirty⟩
  | staged b straps store =>
    rw [store]
    exact ⟨fun _ e => absurd e (by simp), fun _ => rfl⟩
  | copied straps store =>
    rw [store]
    refine ⟨fun _ _ => ?_, fun e => absurd rfl e⟩
    exact (setStaging_stagingBank s.store _).trans (setStaging_activeBank s.store _).symm
  | flipped ops commit dirty ph adopts store =>
    rw [store]
    exact ⟨fun e => absurd e adopts, fun _ => dirty⟩
  | reset brings store time free =>
    rw [store]
    exact ⟨fun _ _ => rfl, fun e => absurd rfl e⟩

/-- Settles O53: the moves of the table store each keep staging equal to active in STEADY and CLEAN. -/
theorem stepKeepsCleanStagingEqual : Obligations.StepKeepsCleanStagingEqual := by
  intro s t inv stepped
  obtain rfl | ⟨i, choices, pending, next⟩ := step_cases stepped
  · unfold State.StoreInv
    rw [tick_store]
    exact inv
  · exact (exec_move { s with choices := choices, pending := pending } next).storeInv _ inv

end Sys2Proof.Machine
end

section
/-! SUPPORT. The generation (R39), CLOSE and REVERT (R55, R144), and the end of a copy (R53, R54). -/

namespace Sys2Proof.Machine

/-! ## The generation -/

/-- R39: no generation follows as 0. -/
theorem nextGeneration_ne_zero (g : Word) : nextGeneration g ≠ 0 := by
  unfold nextGeneration
  split
  · decide
  · bv_omega

/-- R39: the generation stands, or the command flips or brings a reset. -/
theorem StoreMove.generation {c : Instr} {s t : State} (moved : StoreMove c s t) :
    t.store.generation = s.store.generation ∨
      ((∃ ops, c = .commit ops) ∧ s.store.dirty = true ∧ t.store.active = s.store.active.other ∧
        t.store.generation = nextGeneration s.store.generation) ∨
      (t.store.generation = 0 ∧ BringsReset c ∧ t.store = TableStore.powerOn t.straps ∧ t.timebase = 0 ∧
        ∀ p, (t.tx.get p).launch = none) := by
  cases moved with
  | rests h =>
    obtain ⟨-, ph, store, -⟩ := h
    exact .inl (by rw [store])
  | copying dirty straps store => exact .inl (by rw [store])
  | staged b straps store => exact .inl (by rw [store]; exact setStaging_generation s.store b)
  | copied straps store => exact .inl (by rw [store]; exact setStaging_generation s.store _)
  | flipped ops commit dirty ph adopts store =>
    exact .inr (.inl ⟨⟨ops, commit⟩, dirty, by rw [store], by rw [store]⟩)
  | reset brings store time free => exact .inr (.inr ⟨by rw [store]; rfl, brings, store, time, free⟩)

/-- R39: while the generation is 0 the active bank holds the generation-0 contents, and a flip ends that. -/
theorem StoreMove.generation0 {c : Instr} {s t : State} (moved : StoreMove c s t)
    (inv : s.store.generation = 0 → s.active = Bank.generation0 s.straps) (zero : t.store.generation = 0) :
    t.active = Bank.generation0 t.straps := by
  unfold State.active at inv ⊢
  cases moved with
  | rests h =>
    obtain ⟨straps, ph, store, -⟩ := h
    rw [store] at zero ⊢
    rw [straps]
    exact inv zero
  | copying dirty straps store =>
    rw [store] at zero ⊢
    rw [straps]
    exact inv zero
  | staged b straps store =>
    rw [store] at zero ⊢
    rw [straps, ← inv ((setStaging_generation s.store b).symm.trans zero)]
    exact setStaging_activeBank s.store b
  | copied straps store =>
    rw [store] at zero ⊢
    rw [straps, ← inv ((setStaging_generation s.store _).symm.trans zero)]
    exact setStaging_activeBank s.store _
  | flipped ops commit dirty ph adopts store =>
    rw [store] at zero
    exact absurd zero (nextGeneration_ne_zero _)
  | reset brings store time free =>
    rw [store]
    rfl

/-- A command of the EDITOR with no operands is judged by its meaning. -/
theorem editorForm_empty {s : State} {h : InHand} (editor : s.isEditor h.ctx = true) (f : InHand → State → State) :
    editorOnly (withForm 0 [] f) h s = f h s := by
  simp [editorOnly, withForm, editor]

theorem exec_commit {s : State} {h : InHand} (running : s.Running h codeCommit []) (editor : s.isEditor h.ctx = true) :
    exec (.commit []) s = .next (commitNow h s) :=
  congrArg _ ((awake_runCommand s _ running).trans (editorForm_empty editor commitNow))

/-- R46 to R48: DIRTY staging that passes its checks flips, and the command waits for the copy. -/
theorem commitNow_flips {s : State} (h : InHand) (dirty : s.store.dirty = true)
    (ok : s.store.stagingBank.commitOk = true) : commitNow h s = waitForCopy h (flip s) := by
  simp [commitNow, dirty, ok]

/-- Settles O51: each move of the table store keeps the generation, counts it on at a flip, or starts it afresh. -/
theorem generationMovesOnlyAtFlipOrReset : Obligations.GenerationMovesOnlyAtFlipOrReset := by
  refine ⟨fun c s t next => ?_, fun h s running editor dirty ok => ?_⟩
  · have moved := exec_move s next
    refine ⟨moved.generation.imp_right (.imp_right ?_), moved.generation0⟩
    exact id
  · refine ⟨_, (exec_commit running editor).trans (congrArg _ (commitNow_flips h dirty ok)), ?_⟩
    obtain ⟨cs, waits⟩ := waitForCopy_shape (flip s) h
    rw [waits, flip_shape, flipStore_eq]
    exact ⟨rfl, rfl, flipPhase_ne_steady s, rfl⟩

/-! ## CLOSE and REVERT -/

/-- The role of a context in use, changed. -/
theorem onRole_some {s : State} {i : Fin 4} {c : Context} (held : s.contexts[i] = some c) (f : Role → Role) :
    onRole i f s = { s with contexts := s.contexts.set i.val (some { c with role := f c.role }) i.isLt } := by
  unfold onRole
  rw [held]
  rfl

theorem isEditor_of_role {s : State} {i : Fin 4} {c : Context} {length : Half} {lease : Lease}
    (held : s.contexts[i] = some c) (role : c.role = .editor length lease) : s.isEditor i = true := by
  simp [State.isEditor, held, Context.isEditor, role]

/-- R48, R142: the EDITOR's lease is paused with its remaining time, and the agent waits. -/
theorem waitForCopy_editor {s : State} {h : InHand} {c : Context} {length : Half} {due : Time}
    (held : s.contexts[h.ctx] = some c) (role : c.role = .editor length (.running due)) :
    waitForCopy h s =
      { s with
        contexts := s.contexts.set h.ctx.val
          (some { c with role := .editor length (.paused (due - s.timebase)) }) h.ctx.isLt
        agent := { s.agent with state := .commitWait } } := by
  unfold waitForCopy
  rw [onRole_some held, role]
  rfl

/-- R55, R142: a waited revert starts the copy now, and pauses the lease with its remaining time. -/
theorem waitedRevert_eq {s : State} {h : InHand} {c : Context} {length : Half} {due : Time}
    (held : s.contexts[h.ctx] = some c) (role : c.role = .editor length (.running due)) :
    waitedRevert h s =
      { s with
        store := { s.store with phase := .refilling s.timebase }
        contexts := s.contexts.set h.ctx.val
          (some { c with role := .editor length (.paused (due - s.timebase)) }) h.ctx.isLt
        agent := { s.agent with state := .commitWait } } :=
  waitForCopy_editor (s := startCopy s) held role

theorem exec_close {s : State} {h : InHand} (running : s.Running h codeClose []) (editor : s.isEditor h.ctx = true) :
    exec (.closeSession []) s = .next (closeNow h s) :=
  congrArg _ ((awake_runCommand s _ running).trans (editorForm_empty editor closeNow))

theorem exec_revert {s : State} {h : InHand} (running : s.Running h codeRevert [])
    (editor : s.isEditor h.ctx = true) : exec (.revert []) s = .next (revertNow h s) :=
  congrArg _ ((awake_runCommand s _ running).trans (editorForm_empty editor revertNow))

/-- Settles O35: CLEAN staging lets the command return at once, DIRTY staging makes it a waited revert. -/
theorem closeAndRevertAwaitDirtyStaging : Obligations.CloseAndRevertAwaitDirtyStaging := by
  intro h c length due s held role waiting
  have editor := isEditor_of_role held role
  have waits : waitedRevert h s = waiting := waitedRevert_eq held role
  refine ⟨fun running clean => ?_, fun running dirty => ?_, fun running clean => ?_, fun running dirty => ?_⟩
  · rw [exec_close running editor, ← onRole_some held fun _ => .reader]
    simp [closeNow, clean]
  · rw [exec_close running editor, ← waits]
    simp [closeNow, dirty]
  · rw [exec_revert running editor]
    simp [revertNow, clean]
  · rw [exec_revert running editor, ← waits]
    simp [revertNow, dirty]

/-! ## The end of a copy -/

theorem exec_copyBack {s : State} {begun : Time} (awake : s.resetLow = false)
    (refilling : s.store.phase = .refilling begun) : exec .copyBackCompletion s = .next (copyDone s) := by
  refine congrArg Host.Outcome.next ((awake_eq s _ awake).trans ?_)
  rw [refilling]

/-- R54, R55, R144: CLOSE ends the session with no data. -/
theorem endWait_close {s : State} {h : InHand} {cmd : Cmd} {rest : List Cmd} (toRun : h.toRun = cmd :: rest)
    (close : cmd.code = codeClose) :
    endWait h s = finishCommand h .ok []
      (onRole h.ctx (fun _ => .reader) (s.setAgent { s.agent with state := .executing })) := by
  unfold endWait
  simp [toRun, close]

/-- R54, R55, R142: COMMIT and REVERT return the generation, and the lease runs on. -/
theorem endWait_other {s : State} {h : InHand} {cmd : Cmd} {rest : List Cmd} (toRun : h.toRun = cmd :: rest)
    (other : cmd.code ≠ codeClose) :
    endWait h s = finishCommand h .ok (bytes32 s.store.generation)
      (onRole h.ctx (Role.resume s.timebase) (s.setAgent { s.agent with state := .executing })) := by
  unfold endWait
  simp [toRun, other]

/-- Settles O40: the copy ends, and the command that waits for it returns. -/
theorem copyBackCompletionEndsWait : Obligations.CopyBackCompletionEndsWait := by
  intro begun s awake refilling u
  refine ⟨setStaging_stagingBank s.store _, setStaging_activeBank s.store _, fun idle => ?_,
    fun h c length left cmd rest waits inHand toRun held role => ?_⟩
  · rw [exec_copyBack awake refilling]
    unfold copyDone
    split
    · exact absurd ‹_› idle
    · rfl
  · have done : copyDone s = endWait h u := by
      unfold copyDone
      rw [waits, inHand]
      rfl
    have generation : u.store.generation = s.store.generation := setStaging_generation s.store _
    rw [exec_copyBack awake refilling, done]
    by_cases close : cmd.code = 0x02#8
    · rw [endWait_close toRun close, onRole_some (s := u.setAgent _) held, if_pos close, if_pos close]
      rfl
    · rw [endWait_other toRun close, onRole_some (s := u.setAgent _) held, role, generation, if_neg close, if_neg close]
      rfl

end Sys2Proof.Machine
end

section
/-! SUPPORT. The acts of a flip, one by one: what a decision of an arbiter can be, what the cadence unit and the notice
unit do, and which counters each act moves (R87, R105, R109, R110, R123, R167, R168). -/

namespace Sys2Proof.Machine

/-! ## A decision of an arbiter -/

/-- What an arbiter's decision leads to (Table 7-1): it finds nothing to send, or it passes over the closed heads of
some classes and then launches a cadence frame, a service frame or a head. -/
inductive Decision (p : Line) (s : State) : State → Prop
  | quiet (owed : (s.cadence.get p).owed = []) (service : s.service.get p = []) (closed : s.Closed p classesDown) :
      Decision p s (classesDown.foldl (State.passedOver p) s)
  | cadence (front : List TrafficClass) (t : Time) (rest : List Time) (owed : (s.cadence.get p).owed = t :: rest) :
      Decision p s (launchCadence p t rest (front.foldl (State.passedOver p) s))
  | service (e : ServiceEntry) (rest : List ServiceEntry) (queue : s.service.get p = e :: rest) :
      Decision p s (launchService p e rest s)
  | head (front : List TrafficClass) (c : TrafficClass) (d : Descriptor) (rest : List Descriptor)
      (queue : s.queue p c = d :: rest) :
      Decision p s (launchHead p c d rest ((front ++ [c]).foldl (State.passedOver p) s))

/-- A list of classes has closed heads only, or a first open head behind closed ones. -/
theorem closed_or_open (s : State) (p : Line) (cs : List TrafficClass) :
    s.Closed p cs ∨ ∃ front c later, cs = front ++ c :: later ∧ s.Closed p front ∧ s.queue p c ≠ [] ∧
      s.AllowsDecision p c = true := by
  induction cs with
  | nil => exact .inl nofun
  | cons c cs ih =>
    by_cases shut : s.queue p c = [] ∨ s.AllowsDecision p c = false
    · obtain closed | ⟨front, k, later, rfl, closed, opens⟩ := ih
      · exact .inl (List.forall_mem_cons.2 ⟨shut, closed⟩)
      · exact .inr ⟨c :: front, k, later, rfl, List.forall_mem_cons.2 ⟨shut, closed⟩, opens⟩
    · obtain ⟨queued, allowed⟩ := not_or.1 shut
      exact .inr ⟨[], c, cs, rfl, nofun, queued, by simpa using allowed⟩

theorem passedOver_fold_shape (p : Line) (cs : List TrafficClass) : ∀ s : State,
    ∃ pa ct, cs.foldl (State.passedOver p) s = { s with pacer := pa, counters := ct } := by
  induction cs with
  | nil => exact fun s => ⟨_, _, rfl⟩
  | cons c cs ih =>
    intro s
    obtain ⟨_, _, first⟩ := passedOver_shape s p c
    obtain ⟨_, _, later⟩ := ih (s.passedOver p c)
    rw [List.foldl_cons, later, first]
    exact ⟨_, _, rfl⟩

/-- R110: the scan of the classes finds nothing, or launches a cadence frame or the first open head. -/
theorem scanHeads_decision (s : State) (p : Line) (service : s.service.get p = []) :
    Decision p s (scanHeads p classesDown s) := by
  have once : classesDown.Nodup := by decide
  obtain closed | ⟨front, c, later, split, closed, queued, allowed⟩ := closed_or_open s p classesDown
  · have passes := scanHeads_passes p [] classesDown once s closed
    rw [List.append_nil] at passes
    obtain ⟨pa, ct, shape⟩ := passedOver_fold_shape p classesDown s
    have owed : ((classesDown.foldl (State.passedOver p) s).cadence.get p).owed = (s.cadence.get p).owed := by
      rw [shape]
    rw [passes, scanHeads]
    split
    · exact .cadence classesDown _ _ (owed.symm.trans ‹_›)
    · exact .quiet (owed.symm.trans ‹_›) service closed
  · rw [split] at once ⊢
    obtain ⟨once, -, apart⟩ := List.nodup_append.1 once
    have self : c ∉ front := fun inside => apart c inside c (by simp) rfl
    obtain ⟨-, left, -, pa, ct, shape⟩ := passedOver_all p front once s closed
    obtain ⟨d, rest, queue⟩ := List.exists_cons_of_ne_nil queued
    have lane := (left c (.inl self)).1
    have still : (front.foldl (State.passedOver p) s).queue p c = d :: rest := by
      rw [shape]
      exact queue
    have opens : (front.foldl (State.passedOver p) s).AllowsDecision p c = true := by
      rw [← allowed]
      unfold State.AllowsDecision State.Allows
      rw [lane, shape]
      rfl
    have found : evaluateAtDecision p c (front.foldl (State.passedOver p) s) =
        (front ++ [c]).foldl (State.passedOver p) s := by
      rw [List.foldl_append, List.foldl_cons, List.foldl_nil]
      exact (if_neg (by simp [still])).symm
    rw [scanHeads_passes p _ _ once s closed, scanHeads_open _ p c later still opens, found]
    exact .head front c d rest queue

theorem arbitrate_decision (s : State) (p : Line) : Decision p s (arbitrate p s) := by
  unfold arbitrate
  split
  · exact .cadence [] _ _ ‹_›
  · split
    · exact .service _ _ ‹_›
    · exact scanHeads_decision s p ‹_›

/-- Every decision that is not quiet leaves the transmitter busy. -/
theorem Decision.tx {p : Line} {s t : State} (d : Decision p s t) :
    (t.tx = s.tx ∧ (s.cadence.get p).owed = [] ∧ s.service.get p = [] ∧ s.Closed p classesDown ∧
        t = classesDown.foldl (State.passedOver p) s) ∨ (t.tx.get p).launch ≠ none := by
  have launched : ∀ bytes x (u : State), ((startLaunch p bytes x u).tx.get p).launch ≠ none := fun bytes x u => by
    simp [startLaunch]
  cases d with
  | quiet owed service closed =>
    obtain ⟨_, _, shape⟩ := passedOver_fold_shape p classesDown s
    exact .inl ⟨by rw [shape], owed, service, closed, rfl⟩
  | cadence front t rest owed => exact .inr (launched _ _ _)
  | service e rest queue => exact .inr (launched _ _ _)
  | head front c d rest queue =>
    refine .inr ?_
    rw [launchHead_eq, newHead_tx]
    exact launched _ _ (((front ++ [c]).foldl (State.passedOver p) s).setQueue p c rest |>.setLane p c _)

/-! ## The counters that an act moves -/

/-- The counters of Table 10-6 that the queues and heads of line `p` move. -/
def ClassMoved (p : Line) (id : CounterId) : Prop :=
  ∃ c, id = .egress p c .residence ∨ id = .egress p c .windowHolds

/-- The counters that the cadence unit of line `p` moves at a flip, those of its notice included. -/
def CadenceMoved (p : Line) (id : CounterId) : Prop :=
  id = .line p .forcedEntries ∨ ∃ q, id = .line q .noticeLost

section

variable (s : State) (p : Line) (c : TrafficClass)

theorem recordHead_counts (b : Bool) : s.CountsOnly (recordHead p c b s) (· = .egress p c .windowHolds) :=
  fun id other => by rw [recordHead_read, if_neg fun held => other held.1, Counter.add_zero]

theorem passedOver_counts : s.CountsOnly (s.passedOver p c) (ClassMoved p) := by
  unfold State.passedOver
  split
  · exact .of_eq rfl
  · exact (recordHead_counts s p c _).mono fun id held => ⟨c, .inr held⟩

theorem evaluateOffer_classMoved : s.CountsOnly (evaluateOffer p c s) (ClassMoved p) := fun id other => by
  rw [evaluateOffer_counters]
  exact recordHead_counts s p c _ id fun held => other ⟨c, .inr held⟩

/-! ## The cadence unit -/

/-- R123: the timer that a flip leaves, from the entry that was active before. -/
def State.flipTimer (s : State) (p : Line) (old : PortPol) : Timer :=
  if (s.portPol p).tc = old.tc then (s.cadence.get p).timer
  else if s.isUp p && (s.portPol p).tc != 0 then .running (s.timebase + (s.portPol p).tc.setWidth 32) else .stopped

/-- R119: the FORCED test of line `p` finds an entry into FORCED. -/
def State.forces (s : State) (p : Line) : Prop :=
  (s.cadence.get p).forced = false ∧ (s.portPol p).dmax.toNat ≤ (s.cadence.get p).owed.length

theorem cadenceFlip_started (old : PortPol) :
    cadenceFlip p old s =
      forcedTest p (s.setCadence p { s.cadence.get p with timer := s.flipTimer p old }) := by
  unfold cadenceFlip State.flipTimer
  split
  · rw [State.setCadence, PerLine.set_get]
  · rfl

theorem cadenceFlip_unforced (old : PortPol) (rests : ¬ s.forces p) :
    cadenceFlip p old s = s.setCadence p { s.cadence.get p with timer := s.flipTimer p old } := by
  rw [cadenceFlip_started]
  unfold forcedTest
  dsimp only
  rw [setCadence_cadence, PerLine.get_set_same, if_neg]
  show ¬ (!(s.cadence.get p).forced && decide ((s.portPol p).dmax.toNat ≤ (s.cadence.get p).owed.length)) = true
  simpa [State.forces] using rests

/-- The entry into FORCED, before its notice. -/
def State.forcedNow (s : State) (p : Line) (old : PortPol) : State :=
  count (.line p .forcedEntries) 1
    (s.setCadence p { s.cadence.get p with timer := s.flipTimer p old, forced := true })

theorem cadenceFlip_forced (old : PortPol) (forces : s.forces p) :
    cadenceFlip p old s =
      notify (.cadenceForced p (s.cadence.get p).owed.length) s.timebase (s.forcedNow p old) := by
  rw [cadenceFlip_started]
  unfold forcedTest
  dsimp only
  rw [setCadence_cadence, PerLine.get_set_same, if_pos]
  · unfold State.forcedNow State.setCadence
    dsimp only
    rw [PerLine.set_set]
  · show (!(s.cadence.get p).forced && decide ((s.portPol p).dmax.toNat ≤ (s.cadence.get p).owed.length)) = true
    simpa [State.forces] using forces

/-- R117, R119, R123: the cadence units after the acts of the unit of line `p`. -/
theorem cadenceFlip_cadence (old : PortPol) :
    (cadenceFlip p old s).cadence = s.cadence.set p
      { s.cadence.get p with
        timer := s.flipTimer p old
        forced := (s.cadence.get p).forced ||
          decide ((s.portPol p).dmax.toNat ≤ (s.cadence.get p).owed.length) } := by
  rw [cadenceFlip_started, forcedTest_cadence, setCadence_cadence, PerLine.set_set, PerLine.get_set_same]
  rfl

/-- R167, R168: an entry into FORCED is counted and its notice handed over. -/
theorem cadenceFlip_notifies (old : PortPol) (forces : s.forces p) :
    s.Notifies (cadenceFlip p old s) (NoticeEvent.cadenceForced p (s.cadence.get p).owed.length).bytes ∧
      ∀ q, (cadenceFlip p old s).counters.read (.line q .forcedEntries) =
        (s.counters.read (.line q .forcedEntries)).add (if q = p then 1 else 0) := by
  rw [cadenceFlip_forced s p old forces]
  have counters : (s.forcedNow p old).counters = s.counters.add (.line p .forcedEntries) 1 := rfl
  refine ⟨(notify_notifies (s.forcedNow p old) _).of_eq rfl rfl rfl rfl rfl (fun _ => rfl) rfl (fun q => ?_)
    fun _ => Nat.le_refl _, fun q => ?_⟩
  · rw [counters, Counters.read_add_ne _ _ (by simp)]
  · rw [(notify_lost_offers (s.forcedNow p old) _ s.timebase).1 _ (by simp), counters, Counters.read_add]
    simp only [CounterId.line.injEq, and_true]
    split <;> simp [Counter.add_zero]

theorem cadenceFlip_counts (old : PortPol) : s.CountsOnly (cadenceFlip p old s) (CadenceMoved p) := by
  by_cases forces : s.forces p
  · rw [cadenceFlip_forced s p old forces]
    refine State.CountsOnly.trans (t := s.forcedNow p old) (fun id other => ?_)
      ((notify_lost_offers (s.forcedNow p old) _ s.timebase).1.mono fun _ => .inr)
    exact Counters.read_add_ne s.counters 1 fun same => other (.inl same)
  · rw [cadenceFlip_unforced s p old forces]
    exact .of_eq rfl

/-! ## Offers -/

/-- R109: an offer to the arbiter of line `q` was made, or none. -/
def OffersNoMore (s t : State) (q : Line) : Prop :=
  t.offers.get q = s.offers.get q ∨
    (s.isUp q = true ∧ s.txFree q = true ∧ t.offers.get q = s.offers.get q + 1)

theorem offered_noMore (t : State) (q : Line) (offers : t.offers = s.offered p) : OffersNoMore s t q := by
  unfold OffersNoMore
  rw [offers]
  unfold State.offered
  split
  · rename_i may
    obtain ⟨up, free⟩ := Bool.and_eq_true_iff.1 may
    by_cases same : q = p
    · subst same
      exact .inr ⟨up, free, PerLine.get_set_same _ _ _⟩
    · exact .inl (PerLine.get_set_ne _ _ _ _ same)
  · exact .inl rfl

/-- R114: a notice is offered to its arbiter where it joins the queue of a free transmitter. -/
theorem notify_offers (e : NoticeEvent) (t : Time) (q : Line) :
    OffersNoMore s (notify e t s) q ∧
      ((notify e t s).offers.get q = s.offers.get q → s.txFree q = true →
        (notify e t s).service.get q = s.service.get q) := by
  cases target : s.active.devpol.target with
  | none =>
    rw [notify_none s e t target]
    exact ⟨.inl rfl, fun _ _ => rfl⟩
  | some g =>
    rw [notify_some s e t g target]
    generalize
      ({ frame := noticeFrame e t g.station { s with noticeSeq := s.noticeSeq + 1 }
         sort := .notice, builder := .noticeUnit, awaited := false } : ServiceEntry) = x
    cases takes : ({ s with noticeSeq := s.noticeSeq + 1 } : State).serviceTakes g.line with
    | false =>
      rw [enqueue_lost _ _ _ takes]
      exact ⟨.inl rfl, fun _ _ => rfl⟩
    | true =>
      have up : s.isUp g.line = true := (Bool.and_eq_true_iff.1 takes).1
      rw [enqueue_taken _ _ _ takes, offer_eq]
      refine ⟨offered_noMore s g.line _ q rfl, fun still free => ?_⟩
      by_cases same : q = g.line
      · subst same
        have may : (s.isUp g.line && s.txFree g.line) = true := by rw [up, free]; rfl
        have more : (s.offered g.line).get g.line = s.offers.get g.line + 1 := by
          rw [State.offered, if_pos may, PerLine.get_set_same]
        exact absurd (more.symm.trans still) (by omega)
      · exact PerLine.get_set_ne _ _ _ _ same

theorem cadenceFlip_offers (old : PortPol) (q : Line) :
    OffersNoMore s (cadenceFlip p old s) q ∧
      ((cadenceFlip p old s).offers.get q = s.offers.get q → s.txFree q = true →
        (cadenceFlip p old s).service.get q = s.service.get q) := by
  by_cases forces : s.forces p
  · rw [cadenceFlip_forced s p old forces]
    exact notify_offers (s.forcedNow p old) _ _ q
  · rw [cadenceFlip_unforced s p old forces]
    exact ⟨.inl rfl, fun _ _ => rfl⟩

/-! ## Cells -/

/-- A sum over classes of which one term has moved. -/
theorem sum_map_moved {cs : List TrafficClass} (once : cs.Nodup) {c : TrafficClass} (inside : c ∈ cs)
    {f g : TrafficClass → Nat} (others : ∀ k, k ≠ c → g k = f k) : (cs.map g).sum + f c = (cs.map f).sum + g c := by
  induction cs with
  | nil => exact absurd inside (by simp)
  | cons k cs ih =>
    obtain ⟨fresh, once⟩ := List.nodup_cons.1 once
    simp only [List.map_cons, List.sum_cons]
    by_cases same : k = c
    · subst same
      rw [List.map_congr_left fun j later => others j fun e => fresh (e ▸ later)]
      omega
    · have := ih once ((List.mem_cons.1 inside).resolve_left (Ne.symm same))
      rw [others k same]
      omega

variable {s p} in
/-- The cells of the queues of a line of which one queue has moved. -/
theorem queuedCells_moved {t : State} {c : TrafficClass} (others : ∀ k, k ≠ c → t.queue p k = s.queue p k) :
    t.queuedCells p + ((s.queue p c).map (·.cells)).sum = s.queuedCells p + ((t.queue p c).map (·.cells)).sum := by
  have moved := sum_map_moved classesUp_nodup (mem_classesUp c) (f := fun k => ((s.queue p k).map (·.cells)).sum)
    (g := fun k => ((t.queue p k).map (·.cells)).sum) fun k other => congrArg (fun q => (q.map (·.cells)).sum)
      (others k other)
  exact moved

theorem queuedCells_congr {t : State} (queues : t.queues.get p = s.queues.get p) :
    t.queuedCells p = s.queuedCells p := by
  simp only [State.queuedCells, State.queue, queues]

/-- R79, R85: the cells of the late heads return, and no others move. -/
theorem newHead_returned :
    ∃ k, s.pool.Returned p k (newHead p c s).pool ∧ (newHead p c s).queuedCells p + k = s.queuedCells p := by
  refine ⟨_, newHead_pool s p c ▸ Pool.Returned.giveAll p
    ((s.queue p c).takeWhile (overdue s.timebase (s.classPol p c).residence)) s.pool, ?_⟩
  have moved := queuedCells_moved (s := s) (t := newHead p c s) (p := p) (c := c) fun k other =>
    newHead_queue_ne s p c p k (by simp [other])
  rw [newHead_queue] at moved
  have split := congrArg (fun q => (q.map (·.cells)).sum) (List.takeWhile_append_dropWhile
    (p := overdue s.timebase (s.classPol p c).residence) (l := s.queue p c))
  simp only [List.map_append, List.sum_append] at split
  omega

end

end Sys2Proof.Machine
end

section
/-! SUPPORT. One class queue and its head through a flip (R85, R87, R99, R100, R101, R105): what stands after each act,
for whatever acts are still to come. -/

namespace Sys2Proof.Machine

/-! ## What no act of a flip touches -/

/-- From `s` to `t` the tables, the time and the ports stand. -/
structure Stands (s t : State) : Prop where
  store : t.store = s.store
  timebase : t.timebase = s.timebase
  port : t.port = s.port

namespace Stands

variable {s t u : State}

theorem refl (s : State) : Stands s s := ⟨rfl, rfl, rfl⟩

theorem of_reach {p : Line} (h : EgressReach p s t) : Stands s t := ⟨h.store, h.timebase, h.port⟩

theorem trans (h : Stands s t) (k : Stands t u) : Stands s u :=
  ⟨k.store.trans h.store, k.timebase.trans h.timebase, k.port.trans h.port⟩

theorem active (h : Stands s t) : t.active = s.active := by simp only [State.active, h.store]

theorem classPol (h : Stands s t) (p : Line) (c : TrafficClass) : t.classPol p c = s.classPol p c := by
  simp only [State.classPol, h.active]

theorem portPol (h : Stands s t) (p : Line) : t.portPol p = s.portPol p := by simp only [State.portPol, h.active]

theorem isUp (h : Stands s t) (p : Line) : t.isUp p = s.isUp p := by simp only [State.isUp, h.port]

theorem allows (h : Stands s t) {p : Line} {c : TrafficClass}
    (history : (t.lane p c).history = (s.lane p c).history) : t.Allows p c = s.Allows p c := by
  simp only [State.Allows, h.timebase, h.classPol, history]

end Stands

/-- The transmitter of line `p` is as it was at the flip, or a launch has started on it. -/
def TxFlipped (s : State) (p : Line) (u : State) : Prop :=
  u.tx.get p = s.tx.get p ∨ ((s.tx.get p).launch = none ∧ (u.tx.get p).launch ≠ none)

theorem TxFlipped.of_free {s u : State} {p : Line} (h : TxFlipped s p u) (free : u.txFree p = true) :
    u.tx.get p = s.tx.get p :=
  h.resolve_right fun busy => busy.2 (Option.isNone_iff_eq_none.1 free)

/-! ## Heads and their records -/

/-- R100, R102: the record of a class agrees with its queue. -/
def State.HeadStands (s : State) (p : Line) (c : TrafficClass) : Prop :=
  ((s.lane p c).head = .none ↔ s.queue p c = []) ∧ ((s.lane p c).release.isSome = true ↔ (s.lane p c).head = .held)

section

variable (s : State) (p : Line) (c : TrafficClass)

theorem recordHead_queue (b : Bool) : (recordHead p c b s).queue p c = s.queue p c := by
  obtain ⟨_, _, shape⟩ := recordHead_shape s p c b
  rw [shape]
  rfl

theorem recordHead_headStands (b : Bool) : (recordHead p c b s).HeadStands p c := by
  unfold State.HeadStands
  rw [(recordHead_lane s p c b).1, recordHead_queue]
  by_cases empty : s.queue p c = [] <;> cases b <;> simp [empty]

theorem evaluateOffer_headStands : (evaluateOffer p c s).HeadStands p c := by
  unfold State.HeadStands
  rw [evaluateOffer_lane, show (evaluateOffer p c s).queue p c = (evaluate p c s).queue p c by
    rw [State.queue, evaluateOffer_queues, evaluate_eq, recordHead_queue]
    rfl]
  exact recordHead_headStands s p c _

variable {s p c}

/-- R99: a decision finds of an evaluated head what its evaluation found. -/
theorem State.Evaluated.decision (evaluated : s.Evaluated p c) : s.openAtDecision p c = s.Allows p c := by
  obtain ⟨-, release⟩ := evaluated
  cases allows : s.Allows p c with
  | true =>
    rw [if_neg fun both => absurd (both.2.symm.trans allows) (by simp)] at release
    rw [← allows]
    exact if_neg (by simp [release])
  | false =>
    by_contra opens
    exact absurd (allows.symm.trans (openAtDecision_allows s p c (by simpa using opens))) (by simp)

/-- R99: a decision leaves an evaluated head as it stands. -/
theorem State.Evaluated.recorded (evaluated : s.Evaluated p c) :
    (recordHead p c (s.openAtDecision p c) s).lane p c = s.lane p c := by
  have opens := evaluated.decision
  obtain ⟨head, release⟩ := evaluated
  rw [(recordHead_lane s p c _).1, opens, ← head, ← release]

/-- R85: the head is checked where it stands: it is late and leaves, or it is not. -/
theorem checkHead_cases (s : State) (p : Line) (c : TrafficClass) :
    (checkHead p c s = newHead p c s ∧
        ∃ d q, s.queue p c = d :: q ∧ overdue s.timebase (s.classPol p c).residence d = true) ∨
      (checkHead p c s = s ∧
        ∀ d q, s.queue p c = d :: q → overdue s.timebase (s.classPol p c).residence d = false) := by
  unfold checkHead
  split
  · rename_i d q queue
    split
    · exact .inl ⟨rfl, d, q, queue, ‹_›⟩
    · refine .inr ⟨rfl, fun d' q' same => ?_⟩
      obtain ⟨rfl, rfl⟩ := List.cons.inj (queue.symm.trans same)
      exact Bool.eq_false_iff.2 ‹_›
  · exact .inr ⟨rfl, fun d q some => absurd (‹_ = []›.symm.trans some) (by simp)⟩

theorem newHead_headStands (s : State) (p : Line) (c : TrafficClass) : (newHead p c s).HeadStands p c := by
  rw [newHead_eq]
  exact evaluateOffer_headStands _ p c

end

/-- The frames left of a list once its leading late ones are gone begin with one in time. -/
theorem dropWhile_timely {late : Descriptor → Bool} {q r : List Descriptor} {d : Descriptor}
    (left : q.dropWhile late = d :: r) : late d = false := by
  have first := List.head?_dropWhile_not late q
  rw [left] at first
  simpa using first

/-! ## The holds of an unmoved queue -/

/-- R101, R105: the head of a queue that has not moved. A hold is counted when it is held now and was not at the
flip. -/
def HoldsFlipped (s : State) (p : Line) (c : TrafficClass) (u : State) : Prop :=
  ((s.lane p c).head = .held → (u.lane p c).head = .held ∨ s.Allows p c = true) ∧
    ((s.lane p c).head ≠ .held → (u.lane p c).head = .held → s.Allows p c = false) ∧
    u.counters.read (.egress p c .windowHolds) = (s.counters.read (.egress p c .windowHolds)).add
      (if (u.lane p c).head = .held ∧ (s.lane p c).head ≠ .held then 1 else 0)

section

variable {s u : State} {p : Line} {c : TrafficClass}

/-- A record of a head keeps the count of holds, when it finds allowed only what the window allows, finds a head that
was not held as the window has it, and finds a held head released since allowed again. -/
theorem HoldsFlipped.record (h : HoldsFlipped s p c u) (queued : u.queue p c ≠ []) {b : Bool}
    (sound : b = true → s.Allows p c = true) (fair : (s.lane p c).head ≠ .held → b = s.Allows p c)
    (released : (s.lane p c).head = .held → (u.lane p c).head ≠ .held → b = true) :
    HoldsFlipped s p c (recordHead p c b u) := by
  obtain ⟨was, new, count⟩ := h
  unfold HoldsFlipped
  have head : ((recordHead p c b u).lane p c).head = if b then .eligible else .held := by
    rw [(recordHead_lane u p c b).1]
    simp [queued]
  rw [recordHead_read, count, Counter.add_add, head]
  refine ⟨fun held => ?_, fun free held => ?_, ?_⟩
  · cases b with
    | true => exact .inr (sound rfl)
    | false => exact .inl rfl
  · cases b with
    | true => exact absurd held (by simp)
    | false => exact (fair free).symm
  · congr 1
    by_cases held : (s.lane p c).head = .held
    · by_cases still : (u.lane p c).head = .held
      · simp [held, still]
      · simp [held, released held still]
    · by_cases still : (u.lane p c).head = .held
      · simp [held, still, fair held, new held still]
      · simp [held, still]

/-- A head that goes unread, in a lane and a count that stand. -/
theorem HoldsFlipped.of_eq {v : State} (h : HoldsFlipped s p c u) (head : (v.lane p c).head = (u.lane p c).head)
    (holds : v.counters.read (.egress p c .windowHolds) = u.counters.read (.egress p c .windowHolds)) :
    HoldsFlipped s p c v := by
  unfold HoldsFlipped at h ⊢
  rw [head, holds]
  exact h

theorem recordHead_view_empty (heads : u.HeadStands p c) (empty : u.queue p c = []) (b : Bool) :
    (recordHead p c b u).lane p c = u.lane p c := by
  obtain ⟨none, held⟩ := heads
  have head := none.2 empty
  have release : (u.lane p c).release = .none := by
    have unheld : ¬ (u.lane p c).release.isSome = true := fun some => absurd (head.symm.trans (held.1 some)) (by simp)
    simpa using unheld
  rw [(recordHead_lane u p c b).1, if_pos empty, if_neg fun both => both.1 empty, ← head, ← release]

end

/-! ## A class through a flip -/

/-- R85: a frame of class queue `c` of egress `p` has reached the residence limit. -/
abbrev State.late (s : State) (p : Line) (c : TrafficClass) : Descriptor → Bool :=
  overdue s.timebase (s.classPol p c).residence

/-- Class `c` of line `p` while no launch has started on the line since the flip: its history stands, its late heads
leave and are counted at the check of its queue, and the head of a queue that has not moved counts its holds. -/
structure ClassKept (s : State) (rest : List FlipAct) (p : Line) (c : TrafficClass) (u : State) : Prop where
  history : (u.lane p c).history = (s.lane p c).history
  waits : .queue p c ∈ rest → u.queue p c = s.queue p c ∧
    u.counters.read (.egress p c .residence) = s.counters.read (.egress p c .residence)
  taken : .queue p c ∉ rest → u.queue p c = (s.queue p c).dropWhile (s.late p c) ∧
    u.counters.read (.egress p c .residence) =
      (s.counters.read (.egress p c .residence)).add ((s.queue p c).takeWhile (s.late p c)).length
  holds : u.queue p c = s.queue p c → HoldsFlipped s p c u

/-- Class `c` of line `p` in the course of a flip from `s`, with the acts `rest` still to come. -/
structure ClassFlipped (s : State) (rest : List FlipAct) (p : Line) (c : TrafficClass) (u : State) : Prop where
  suffix : u.queue p c <:+ s.queue p c
  timely : .queue p c ∉ rest → ∀ d q, u.queue p c = d :: q → s.late p c d = false
  evaluated : .head p c ∉ rest → u.Evaluated p c
  heads : u.HeadStands p c
  kept : u.tx.get p = s.tx.get p → ClassKept s rest p c u

namespace ClassFlipped

variable {s u v : State} {rest : List FlipAct} {a : FlipAct} {p : Line} {c : TrafficClass}

/-- At the flip every act is still to come. -/
theorem start (heads : s.HeadStands p c) (queue : .queue p c ∈ rest) (head : .head p c ∈ rest) :
    ClassFlipped s rest p c s where
  suffix := List.suffix_refl _
  timely out := absurd queue out
  evaluated out := absurd head out
  heads := heads
  kept _ :=
    { history := rfl
      waits := fun _ => ⟨rfl, rfl⟩
      taken := fun out => absurd queue out
      holds := fun _ => ⟨.inl, fun unheld held => absurd held unheld, by
        rw [if_neg fun both => both.2 both.1, Counter.add_zero]⟩ }

/-- An act of another block is over. -/
theorem skip (h : ClassFlipped s (a :: rest) p c u) (queue : .queue p c ≠ a) (head : .head p c ≠ a) :
    ClassFlipped s rest p c u where
  suffix := h.suffix
  timely out := h.timely (by simp [queue, out])
  evaluated out := h.evaluated (by simp [head, out])
  heads := h.heads
  kept same :=
    { history := (h.kept same).history
      waits := fun inside => (h.kept same).waits (List.mem_cons_of_mem _ inside)
      taken := fun out => (h.kept same).taken (by simp [queue, out])
      holds := (h.kept same).holds }

/-- What leaves the class, its tables and its time alone, and takes back no launch. -/
theorem of_eq (h : ClassFlipped s rest p c u) (stands : Stands u v) (queue : v.queue p c = u.queue p c)
    (lane : v.lane p c = u.lane p c) (tx : v.tx.get p = s.tx.get p → u.tx.get p = s.tx.get p)
    (counters : ∀ k, v.counters.read (.egress p c k) = u.counters.read (.egress p c k)) :
    ClassFlipped s rest p c v where
  suffix := by rw [queue]; exact h.suffix
  timely out := by rw [queue]; exact h.timely out
  evaluated out := (h.evaluated out).of_eq lane queue stands.timebase (stands.classPol p c)
  heads := by
    have heads := h.heads
    unfold State.HeadStands at heads ⊢
    rw [lane, queue]
    exact heads
  kept same :=
    { history := by rw [lane]; exact (h.kept (tx same)).history
      waits := by rw [queue, counters]; exact (h.kept (tx same)).waits
      taken := by rw [queue, counters]; exact (h.kept (tx same)).taken
      holds := by
        rw [queue]
        exact fun unmoved => ((h.kept (tx same)).holds unmoved).of_eq (by rw [lane]) (counters _) }

/-- While no launch has started the window allows what it allowed at the flip. -/
theorem allows (h : ClassFlipped s rest p c u) (stands : Stands s u) (same : u.tx.get p = s.tx.get p) :
    u.Allows p c = s.Allows p c := stands.allows (h.kept same).history

/-- A record of the head keeps what the flip knows of the class, for each way to find the head: by its window, or by a
decision. -/
theorem record (h : ClassFlipped s rest p c u) (stands : Stands s u) {b : Bool}
    (found : b = u.Allows p c ∨ b = u.openAtDecision p c)
    (evaluated : .head p c ∉ rest → (recordHead p c b u).Evaluated p c) :
    ClassFlipped s rest p c (recordHead p c b u) := by
  obtain ⟨pa, ct, shape⟩ := recordHead_shape u p c b
  have queue := recordHead_queue u p c b
  have tx : (recordHead p c b u).tx = u.tx := by rw [shape]
  have lane := (recordHead_lane u p c b).1
  have residence : (recordHead p c b u).counters.read (.egress p c .residence) =
      u.counters.read (.egress p c .residence) := recordHead_counts u p c b _ (by simp)
  refine ⟨by rw [queue]; exact h.suffix, by rw [queue]; exact h.timely, evaluated, recordHead_headStands u p c b,
    fun same => ?_⟩
  rw [tx] at same
  obtain ⟨history, waits, taken, holds⟩ := h.kept same
  refine ⟨by rw [lane]; exact history, by rw [queue, residence]; exact waits, by rw [queue, residence]; exact taken,
    fun unmoved => ?_⟩
  rw [queue] at unmoved
  have allows := h.allows stands same
  have sound : b = true → s.Allows p c = true := fun opens => by
    subst opens
    rw [← allows]
    exact found.elim Eq.symm fun e => openAtDecision_allows u p c e.symm
  have unreleased : (u.lane p c).release ≠ some u.timebase → b = s.Allows p c := fun none => by
    rw [← allows]
    exact found.elim id fun e => e.trans (if_neg none)
  have unheld : (u.lane p c).head ≠ .held → b = s.Allows p c := fun free =>
    unreleased fun due => free (h.heads.2.1 (by rw [due]; rfl))
  by_cases empty : u.queue p c = []
  · have view := recordHead_view_empty h.heads empty b
    refine (holds unmoved).of_eq (by rw [view]) ?_
    rw [recordHead_read, view, if_neg, Counter.add_zero]
    exact fun both => absurd (both.2.1.symm.trans (h.heads.1.2 empty)) (by simp)
  · refine (holds unmoved).record empty sound (fun free => ?_) fun held still => ?_
    · by_cases held : (u.lane p c).head = .held
      · have closed := (holds unmoved).2.1 free held
        rw [closed]
        exact Bool.eq_false_iff.2 fun opens => absurd (closed.symm.trans (sound opens)) (by simp)
      · exact unheld held
    · rw [unheld still]
      exact ((holds unmoved).1 held).resolve_left still

/-- A decision that passes over the class. -/
theorem passedOver (h : ClassFlipped s rest p c u) (stands : Stands s u) :
    ClassFlipped s rest p c (u.passedOver p c) := by
  unfold State.passedOver
  split
  · exact h
  · refine h.record stands (.inr rfl) fun out => ?_
    obtain ⟨_, _, shape⟩ := recordHead_shape u p c (u.openAtDecision p c)
    refine (h.evaluated out).of_eq (h.evaluated out).recorded (recordHead_queue u p c _) ?_ ?_
    · rw [shape]
    · rw [shape]
      rfl

/-- The evaluation of the head at the flip (R105). -/
theorem evaluates (h : ClassFlipped s (.head p c :: rest) p c u) (stands : Stands s u) :
    ClassFlipped s rest p c (evaluateOffer p c u) := by
  have found := h.record stands (b := u.Allows p c) (.inl rfl) fun out => absurd (List.mem_cons_self ..) out
  have still : ClassFlipped s (.head p c :: rest) p c (evaluateOffer p c u) := by
    refine found.of_eq ?_ ?_ (evaluateOffer_lane u p c p c) ?_ fun k => by rw [evaluateOffer_counters, evaluate_eq]
    · obtain ⟨_, _, shape⟩ := recordHead_shape u p c (u.Allows p c)
      obtain ⟨_, _, _, shape'⟩ := evaluateOffer_shape u p c
      rw [shape, shape']
      exact ⟨rfl, rfl, rfl⟩
    · rw [State.queue, evaluateOffer_queues, recordHead_queue]
      rfl
    · obtain ⟨_, _, shape⟩ := recordHead_shape u p c (u.Allows p c)
      obtain ⟨_, _, _, shape'⟩ := evaluateOffer_shape u p c
      rw [shape, shape']
      exact id
  exact
    { suffix := still.suffix
      timely := fun out => still.timely (by simp [out])
      evaluated := fun _ => evaluateOffer_evaluated u p c
      heads := still.heads
      kept := fun same =>
        { history := (still.kept same).history
          waits := fun inside => (still.kept same).waits (List.mem_cons_of_mem _ inside)
          taken := fun out => (still.kept same).taken (by simp [out])
          holds := (still.kept same).holds } }

/-- The check of the queue at the flip (R85, R87). -/
theorem checks (h : ClassFlipped s (.queue p c :: rest) p c u) (fresh : .queue p c ∉ rest) (stands : Stands s u) :
    ClassFlipped s rest p c (checkHead p c u) := by
  have late : overdue u.timebase (u.classPol p c).residence = s.late p c := by
    rw [stands.timebase, stands.classPol]
  have waits := fun same => (h.kept same).waits (List.mem_cons_self ..)
  have headRest : .head p c ∉ rest → .head p c ∉ FlipAct.queue p c :: rest := fun out => by simp [out]
  obtain ⟨checked, d, q, queue, overdue⟩ | ⟨checked, timely⟩ := checkHead_cases u p c <;> rw [checked]
  · have left := newHead_queue u p c
    rw [late] at overdue left
    refine ⟨?_, fun _ d' q' some => ?_, fun _ => newHead_evaluated u p c, newHead_headStands u p c, fun same => ?_⟩
    · rw [left]
      exact (List.dropWhile_suffix _).trans h.suffix
    · rw [left] at some
      exact dropWhile_timely some
    · rw [newHead_tx] at same
      obtain ⟨unmoved, count⟩ := waits same
      refine ⟨?_, fun inside => absurd inside fresh, fun _ => ⟨by rw [left, unmoved], ?_⟩, fun still => ?_⟩
      · rw [newHead_history]
        exact (h.kept same).history
      · rw [newHead_read, if_pos rfl, if_neg (by simp), Counter.add_zero, late, count, unmoved]
      · rw [left, ← unmoved, queue, List.dropWhile_cons_of_pos overdue] at still
        have shorter := (List.dropWhile_suffix (l := q) (s.late p c)).length_le
        rw [still, List.length_cons] at shorter
        omega
  · rw [late] at timely
    refine ⟨h.suffix, fun _ => timely, fun out => h.evaluated (headRest out), h.heads, fun same => ?_⟩
    obtain ⟨unmoved, count⟩ := waits same
    refine ⟨(h.kept same).history, fun inside => absurd inside fresh, fun _ => ?_, (h.kept same).holds⟩
    rw [unmoved] at timely ⊢
    rw [count]
    cases queue : s.queue p c with
    | nil => exact ⟨rfl, (Counter.add_zero _).symm⟩
    | cons d q =>
      have first : ¬ s.late p c d = true := by simp [timely d q queue]
      rw [List.dropWhile_cons_of_neg first, List.takeWhile_cons_of_neg first]
      exact ⟨rfl, (Counter.add_zero _).symm⟩

/-- The launch of the head, and the check and evaluation of the head behind it (R84, R85, R100). -/
theorem launches (h : ClassFlipped s rest p c u) (stands : Stands s u) {d : Descriptor} {q : List Descriptor}
    (queue : u.queue p c = d :: q) (started : (launchHead p c d q u).tx.get p ≠ s.tx.get p) :
    ClassFlipped s rest p c (launchHead p c d q u) := by
  have left := newHead_queue (u.launching p c d q) p c
  rw [launching_queue, ← launchHead_eq,
    show overdue (u.launching p c d q).timebase ((u.launching p c d q).classPol p c).residence =
      overdue u.timebase (u.classPol p c).residence from rfl, stands.timebase, stands.classPol] at left
  refine ⟨?_, fun _ d' q' some => ?_, fun _ => ?_, ?_, fun same => absurd same started⟩
  · rw [left]
    exact (List.dropWhile_suffix _).trans ((List.suffix_cons d q).trans (queue ▸ h.suffix))
  · rw [left] at some
    exact dropWhile_timely some
  · exact newHead_evaluated (u.launching p c d q) p c
  · exact newHead_headStands (u.launching p c d q) p c

end ClassFlipped

end Sys2Proof.Machine
end

section
/-! SUPPORT. The cadence units and the notices of a flip (R119, R123, R167, R168): what stands after each act, for
whatever acts are still to come. -/

namespace Sys2Proof.Machine

/-! ## The cadence unit of a line -/

/-- The cadence unit of line `p` in the course of a flip from `s`, with the acts `rest` still to come; `old` is the
entry that was active before. -/
structure CadenceFlipped (s : State) (old : PortPol) (rest : List FlipAct) (p : Line) (u : State) : Prop where
  waits : .cadence p ∈ rest → (u.cadence.get p).timer = (s.cadence.get p).timer
  timer : .cadence p ∉ rest → (u.cadence.get p).timer = s.flipTimer p old
  forced : .cadence p ∉ rest → 1 ≤ (s.portPol p).dmax.toNat →
    (s.portPol p).dmax.toNat ≤ (u.cadence.get p).owed.length → (u.cadence.get p).forced = true
  debt : (u.cadence.get p).owed = (s.cadence.get p).owed ∨
    (u.tx.get p ≠ s.tx.get p ∧ (u.cadence.get p).owed.length + 1 = (s.cadence.get p).owed.length)
  paid : (s.cadence.get p).forced = true → (u.cadence.get p).forced = true ∨ (u.cadence.get p).owed = []
  untested : u.tx.get p = s.tx.get p → .cadence p ∈ rest → u.cadence.get p = s.cadence.get p
  tested : u.tx.get p = s.tx.get p → .cadence p ∉ rest → u.cadence.get p =
    { s.cadence.get p with
      timer := (u.cadence.get p).timer
      forced := (s.cadence.get p).forced ||
        decide ((s.portPol p).dmax.toNat ≤ (s.cadence.get p).owed.length) }

namespace CadenceFlipped

variable {s u v : State} {old : PortPol} {rest : List FlipAct} {a : FlipAct} {p : Line}

theorem start (cadence : .cadence p ∈ rest) : CadenceFlipped s old rest p s where
  waits _ := rfl
  timer out := absurd cadence out
  forced out := absurd cadence out
  debt := .inl rfl
  paid := .inl
  untested _ _ := rfl
  tested _ out := absurd cadence out

theorem skip (h : CadenceFlipped s old (a :: rest) p u) (other : .cadence p ≠ a) : CadenceFlipped s old rest p u where
  waits inside := h.waits (List.mem_cons_of_mem _ inside)
  timer out := h.timer (by simp [other, out])
  forced out := h.forced (by simp [other, out])
  debt := h.debt
  paid := h.paid
  untested same inside := h.untested same (List.mem_cons_of_mem _ inside)
  tested same out := h.tested same (by simp [other, out])

theorem of_eq (h : CadenceFlipped s old rest p u) (cadence : v.cadence.get p = u.cadence.get p)
    (tx : v.tx.get p = s.tx.get p → u.tx.get p = s.tx.get p) : CadenceFlipped s old rest p v where
  waits := by rw [cadence]; exact h.waits
  timer := by rw [cadence]; exact h.timer
  forced := by rw [cadence]; exact h.forced
  debt := by rw [cadence]; exact h.debt.imp_right (And.imp_left (mt tx))
  paid := by rw [cadence]; exact h.paid
  untested same := by rw [cadence]; exact h.untested (tx same)
  tested same := by rw [cadence]; exact h.tested (tx same)

theorem cadenceFlip_tx (u : State) (p : Line) (old : PortPol) : (cadenceFlip p old u).tx = u.tx := by
  rw [cadenceFlip_started]
  obtain ⟨_, _, _, _, _, shape⟩ := forcedTest_shape
    (u.setCadence p { u.cadence.get p with timer := u.flipTimer p old }) p
  rw [shape]
  rfl

/-- R117, R119, R123: the acts of the unit at the flip. -/
theorem tests (h : CadenceFlipped s old (.cadence p :: rest) p u) (fresh : .cadence p ∉ rest) (stands : Stands s u) :
    CadenceFlipped s old rest p (cadenceFlip p old u) := by
  have timer : u.flipTimer p old = s.flipTimer p old := by
    unfold State.flipTimer
    rw [stands.portPol, stands.isUp, stands.timebase, h.waits (List.mem_cons_self ..)]
  have unit : (cadenceFlip p old u).cadence.get p =
      { u.cadence.get p with
        timer := s.flipTimer p old
        forced := (u.cadence.get p).forced ||
          decide ((s.portPol p).dmax.toNat ≤ (u.cadence.get p).owed.length) } := by
    rw [cadenceFlip_cadence, PerLine.get_set_same, timer, stands.portPol]
  constructor <;> rw [unit] <;> try rw [cadenceFlip_tx]
  · exact fun inside => absurd inside fresh
  · exact fun _ => rfl
  · exact fun _ _ reached => by simp [reached]
  · exact h.debt
  · exact fun forced => (h.paid forced).imp_left fun still => by simp [still]
  · exact fun _ inside => absurd inside fresh
  · exact fun same _ => by rw [h.untested same (List.mem_cons_self ..)]

/-- R120, R121: a cadence launch pays one owed entry. -/
theorem pays (h : CadenceFlipped s old rest p u) {t : Time} {owed : List Time}
    (due : (u.cadence.get p).owed = t :: owed) (idle : u.tx.get p = s.tx.get p)
    (started : (launchCadence p t owed u).tx.get p ≠ s.tx.get p) :
    CadenceFlipped s old rest p (launchCadence p t owed u) := by
  have unit : (launchCadence p t owed u).cadence.get p =
      { u.cadence.get p with
        owed := owed, forced := (u.cadence.get p).forced && !owed.isEmpty, seq := (u.cadence.get p).seq + 1 } :=
    PerLine.get_set_same _ _ _
  constructor <;> try rw [unit]
  · exact h.waits
  · exact h.timer
  · intro out some reached
    have before : (s.portPol p).dmax.toNat ≤ (u.cadence.get p).owed.length := by
      rw [due, List.length_cons]
      exact Nat.le_succ_of_le reached
    have more := h.forced out some before
    have left : owed ≠ [] := fun none => by
      rw [none] at reached
      exact absurd (some.trans reached) (by simp)
    simp [more, left]
  · refine .inr ⟨started, ?_⟩
    rw [← h.debt.resolve_right fun paid => paid.1 idle, due, List.length_cons]
  · intro forced
    have still := (h.paid forced).resolve_right (by simp [due])
    by_cases none : owed = []
    · exact .inr none
    · exact .inl (by simp [still, none])
  · exact fun same => absurd same started
  · exact fun same => absurd same started

/-- An entry into FORCED is found on a unit that was not FORCED at the flip, with the debt of that time or one less. -/
theorem entry (h : CadenceFlipped s old (.cadence p :: rest) p u) (stands : Stands s u)
    (some : 1 ≤ (s.portPol p).dmax.toNat) (forces : u.forces p) :
    (s.cadence.get p).forced = false ∧ (s.portPol p).dmax.toNat ≤ (u.cadence.get p).owed.length ∧
      ((u.cadence.get p).owed.length = (s.cadence.get p).owed.length ∨
        (u.tx.get p ≠ s.tx.get p ∧ (u.cadence.get p).owed.length + 1 = (s.cadence.get p).owed.length)) := by
  obtain ⟨unforced, reached⟩ := forces
  rw [stands.portPol] at reached
  refine ⟨?_, reached, h.debt.imp_left (congrArg List.length)⟩
  by_contra forced
  obtain still | none := h.paid (by simpa using forced)
  · exact absurd (unforced.symm.trans still) (by simp)
  · rw [none] at reached
    exact absurd (some.trans reached) (by simp)

end CadenceFlipped

/-! ## The notices built -/

/-- Table 10-5: the notice of an entry into FORCED at a flip from `s`, the entry of this number. -/
def State.flipNotice (s : State) (g : NoticeTarget) (x : (Line × Nat) × Nat) : ServiceEntry :=
  { frame := buildFrame g.station s.active.identity 0x12#8 64 0 (s.noticeSeq + BitVec.ofNat 16 (x.2 + 1))
      ([0x02#8, if x.1.1 = .n then 0x00#8 else 0x01#8, byteOf x.1.2, 0x00#8] ++
        bytes32 s.timebase ++ bytes32 s.store.generation)
    sort := .notice, builder := .noticeUnit, awaited := false }

/-- R168: the notices of the entries into FORCED that are built for line `q`. -/
def State.flipNotices (s : State) (entries : List (Line × Nat)) (q : Line) : List ServiceEntry :=
  match s.active.devpol.target with
  | some g => if g.line = q then entries.zipIdx.map (s.flipNotice g) else []
  | none => []

/-- The service frame that a flip from `s` has sent on line `q`, if any. -/
def State.flipSent (s : State) (q : Line) (u : State) : List ServiceEntry :=
  if s.txFree q then (u.tx.get q).serviceSent else []

/-- The service queue of line `q` in the course of a flip from `s`, with these entries into FORCED so far: the notices
that joined it are behind what it held, a frame sent has left its front, and the others are counted lost. -/
def ServiceFlipped (s : State) (entries : List (Line × Nat)) (q : Line) (u : State) : Prop :=
  ∃ kept : List ServiceEntry,
    s.flipSent q u ++ u.service.get q = s.service.get q ++ kept ∧ kept.Sublist (s.flipNotices entries q) ∧
      (s.flipSent q u = [] →
        kept = if s.isUp q then (s.flipNotices entries q).take (4 - (s.service.get q).length) else []) ∧
      u.counters.read (.line q .noticeLost) =
        (s.counters.read (.line q .noticeLost)).add ((s.flipNotices entries q).length - kept.length)

section

variable {s u v : State} {entries : List (Line × Nat)} {p q : Line}

theorem flipNotices_other (aim : ∀ g, s.active.devpol.target = some g → g.line ≠ q) : s.flipNotices entries q = [] := by
  unfold State.flipNotices
  split
  · exact if_neg (aim _ ‹_›)
  · rfl

theorem flipNotices_append {g : NoticeTarget} (aim : s.active.devpol.target = some g) (x : Line × Nat) :
    s.flipNotices (entries ++ [x]) g.line = s.flipNotices entries g.line ++ [s.flipNotice g (x, entries.length)] := by
  unfold State.flipNotices
  rw [aim]
  simp [List.zipIdx_append]

namespace ServiceFlipped

theorem start (idle : s.flipSent q s = []) : ServiceFlipped s [] q s := by
  have none : s.flipNotices [] q = [] := by
    unfold State.flipNotices
    split <;> simp
  refine ⟨[], ?_, List.nil_sublist _, fun _ => ?_, ?_⟩
  · rw [idle, List.append_nil, List.nil_append]
  · rw [none, List.take_nil, ite_self]
  · rw [none]
    exact (Counter.add_zero _).symm

theorem of_eq (h : ServiceFlipped s entries q u) (sent : s.flipSent q v = s.flipSent q u)
    (service : v.service.get q = u.service.get q)
    (lost : v.counters.read (.line q .noticeLost) = u.counters.read (.line q .noticeLost)) :
    ServiceFlipped s entries q v := by
  unfold ServiceFlipped at h ⊢
  rw [sent, service, lost]
  exact h

/-- R112: the frame at the front of the queue is sent. -/
theorem sends (h : ServiceFlipped s entries q u) {e : ServiceEntry} {later : List ServiceEntry}
    (queue : u.service.get q = e :: later) (unsent : s.flipSent q u = []) (sent : s.flipSent q v = [e])
    (service : v.service.get q = later)
    (lost : v.counters.read (.line q .noticeLost) = u.counters.read (.line q .noticeLost)) :
    ServiceFlipped s entries q v := by
  obtain ⟨kept, all, built, -, count⟩ := h
  refine ⟨kept, ?_, built, fun none => absurd (sent.symm.trans none) (by simp), by rw [lost, count]⟩
  rw [sent, service, ← all, unsent, queue]
  rfl

/-- R114, R167, R168: the notice of one entry into FORCED joins its queue, or is counted lost. -/
theorem notified (h : ServiceFlipped s entries q u) (stands : Stands s u)
    (seq : u.noticeSeq = s.noticeSeq + BitVec.ofNat 16 entries.length) (debt : Nat)
    (notifies : u.Notifies v (NoticeEvent.cadenceForced p debt).bytes) (tx : v.tx = u.tx) :
    ServiceFlipped s (entries ++ [(p, debt)]) q v := by
  have sent : s.flipSent q v = s.flipSent q u := by unfold State.flipSent; rw [tx]
  obtain ⟨-, others, target⟩ := notifies
  rw [stands.active] at others target
  by_cases aimed : ∃ g, s.active.devpol.target = some g ∧ g.line = q
  · obtain ⟨g, aim, rfl⟩ := aimed
    obtain ⟨taken, full⟩ := target g aim
    obtain ⟨kept, all, built, whole, count⟩ := h
    have fits := built.length_le
    have append := flipNotices_append (entries := entries) aim (p, debt)
    unfold ServiceFlipped
    rw [append, sent]
    generalize s.flipNotices entries g.line = notices at *
    have lengths : s.flipSent g.line u = [] →
        (u.service.get g.line).length = (s.service.get g.line).length + kept.length := fun none => by
      rw [none, List.nil_append] at all
      rw [all, List.length_append]
    have shorter : s.flipSent g.line u = [] → s.isUp g.line = true →
        kept.length = min (4 - (s.service.get g.line).length) notices.length := fun none up => by
      rw [whole none, if_pos up, List.length_take]
    cases takes : u.serviceTakes g.line with
    | true =>
      obtain ⟨queue, same, -⟩ := taken takes
      simp only [State.serviceTakes, stands.isUp, Bool.and_eq_true, decide_eq_true_eq] at takes
      obtain ⟨up, room⟩ := takes
      have entry : s.flipNotice g ((p, debt), entries.length) =
          { frame := buildFrame g.station s.active.identity 0x12#8 64 0 (u.noticeSeq + 1)
              ((NoticeEvent.cadenceForced p debt).bytes ++ bytes32 u.timebase ++ bytes32 u.store.generation)
            sort := .notice, builder := .noticeUnit, awaited := false } := by
        have next : BitVec.ofNat 16 (entries.length + 1) = BitVec.ofNat 16 entries.length + 1 := BitVec.ofNat_add _ _
        have line : lineCode p = if p = .n then 0x00#8 else 0x01#8 := by cases p <;> rfl
        rw [seq, stands.timebase, stands.store, BitVec.add_assoc, ← next]
        simp only [NoticeEvent.bytes, line]
        rfl
      refine ⟨kept ++ [s.flipNotice g ((p, debt), entries.length)], ?_, built.append_right _, fun none => ?_, ?_⟩
      · rw [queue, entry, ← List.append_assoc, all, List.append_assoc]
      · have := lengths none
        have := shorter none up
        have every : kept = notices := built.eq_of_length (by omega)
        rw [if_pos up, List.take_of_length_le, every]
        rw [List.length_append, List.length_singleton, ← every]
        omega
      · rw [same, count]
        simp
    | false =>
      obtain ⟨queue, lost⟩ := full takes
      refine ⟨kept, by rw [queue, all], built.trans (List.sublist_append_left _ _), fun none => ?_, ?_⟩
      · rw [whole none]
        split
        · rename_i up
          have := lengths none
          have := shorter none up
          simp only [State.serviceTakes, stands.isUp, up, Bool.true_and, decide_eq_false_iff_not] at takes
          rw [List.take_append_of_le_length (by omega)]
        · rfl
      · rw [lost, count, Counter.add_add, List.length_append, List.length_singleton]
        congr 1
        omega
  · have aim : ∀ g, s.active.devpol.target = some g → g.line ≠ q := fun g aim same => aimed ⟨g, aim, same⟩
    obtain ⟨service, lost⟩ := others q aim
    have moved := h.of_eq sent service lost
    unfold ServiceFlipped at moved ⊢
    rw [flipNotices_other aim] at moved ⊢
    exact moved

end ServiceFlipped

end

/-! ## The entries into FORCED -/

/-- The entries into FORCED of a flip from `s` so far, each a line and its debt, with the acts `rest` still to come. -/
structure EntriesFlipped (s : State) (rest : List FlipAct) (entries : List (Line × Nat)) (u : State) : Prop where
  once : (entries.map Prod.fst).Nodup
  found : ∀ p debt, (p, debt) ∈ entries → .cadence p ∉ rest ∧ (s.cadence.get p).forced = false ∧
    (s.portPol p).dmax.toNat ≤ debt ∧
    (debt = (s.cadence.get p).owed.length ∨
      (u.tx.get p ≠ s.tx.get p ∧ debt + 1 = (s.cadence.get p).owed.length))
  entered : ∀ p, u.tx.get p = s.tx.get p → (s.cadence.get p).forced = false → (u.cadence.get p).forced = true →
    (p, (s.cadence.get p).owed.length) ∈ entries
  counted : ∀ p, u.counters.read (.line p .forcedEntries) =
    (s.counters.read (.line p .forcedEntries)).add ((entries.map Prod.fst).count p)
  seq : u.noticeSeq = s.noticeSeq + BitVec.ofNat 16 entries.length

namespace EntriesFlipped

variable {s u v : State} {rest : List FlipAct} {a : FlipAct} {entries : List (Line × Nat)} {p : Line}

theorem start : EntriesFlipped s rest [] s where
  once := List.nodup_nil
  found _ _ inside := absurd inside (by simp)
  entered _ _ unforced forced := absurd (unforced.symm.trans forced) (by simp)
  counted _ := (Counter.add_zero _).symm
  seq := by simp

theorem skip (h : EntriesFlipped s (a :: rest) entries u) : EntriesFlipped s rest entries u where
  once := h.once
  found q debt inside := (h.found q debt inside).imp_left fun out later => out (List.mem_cons_of_mem _ later)
  entered := h.entered
  counted := h.counted
  seq := h.seq

/-- What finds no entry, and takes back no launch. -/
theorem of_eq (h : EntriesFlipped s rest entries u) (tx : ∀ q, v.tx.get q = s.tx.get q → u.tx.get q = s.tx.get q)
    (forced : ∀ q, v.tx.get q = s.tx.get q → (v.cadence.get q).forced = (u.cadence.get q).forced)
    (counters : ∀ q, v.counters.read (.line q .forcedEntries) = u.counters.read (.line q .forcedEntries))
    (seq : v.noticeSeq = u.noticeSeq) : EntriesFlipped s rest entries v where
  once := h.once
  found q debt inside := by
    obtain ⟨acted, unforced, reached, paid⟩ := h.found q debt inside
    exact ⟨acted, unforced, reached, paid.imp_right (.imp_left (mt (tx q)))⟩
  entered q same unforced now := h.entered q (tx q same) unforced (by rw [← forced q same]; exact now)
  counted q := by rw [counters, h.counted]
  seq := by rw [seq, h.seq]

/-- R119, R167: the unit of line `p` enters FORCED with this debt. -/
theorem enters (h : EntriesFlipped s (.cadence p :: rest) entries u) (fresh : .cadence p ∉ rest) {debt : Nat}
    (found : (s.cadence.get p).forced = false ∧ (s.portPol p).dmax.toNat ≤ debt ∧
      (debt = (s.cadence.get p).owed.length ∨
        (u.tx.get p ≠ s.tx.get p ∧ debt + 1 = (s.cadence.get p).owed.length)))
    (tx : v.tx = u.tx) (others : ∀ q, q ≠ p → v.cadence.get q = u.cadence.get q)
    (counters : ∀ q, v.counters.read (.line q .forcedEntries) =
      (u.counters.read (.line q .forcedEntries)).add (if q = p then 1 else 0))
    (seq : v.noticeSeq = u.noticeSeq + 1) : EntriesFlipped s rest (entries ++ [(p, debt)]) v where
  once := by
    rw [List.map_append, List.nodup_append]
    refine ⟨h.once, by simp, fun q inside r last => ?_⟩
    obtain ⟨⟨q', d⟩, member, rfl⟩ := List.mem_map.1 inside
    rintro rfl
    obtain rfl : q' = p := by simpa using last
    exact (h.found _ d member).1 (List.mem_cons_self ..)
  found q d inside := by
    rw [tx]
    obtain inside | last := List.mem_append.1 inside
    · exact h.skip.found q d inside
    · obtain ⟨rfl, rfl⟩ : q = p ∧ d = debt := by simpa using last
      exact ⟨fresh, found⟩
  entered q same unforced now := by
    rw [tx] at same
    by_cases own : q = p
    · subst own
      have debt := found.2.2.resolve_right fun paid => paid.1 same
      rw [debt]
      simp
    · rw [others q own] at now
      exact List.mem_append_left _ (h.entered q same unforced now)
  counted q := by
    rw [counters, h.counted, Counter.add_add, List.map_append, List.count_append]
    congr 2
    by_cases own : q = p
    · simp [own]
    · rw [if_neg own]
      exact (List.count_eq_zero.2 (by simpa using own)).symm
  seq := by
    rw [seq, h.seq, List.length_append, List.length_singleton, BitVec.ofNat_add, BitVec.add_assoc]
    rfl

/-- R119: where no launch has started, an entry is counted where the debt had reached the limit. -/
theorem counted_idle (h : EntriesFlipped s rest entries u) (idle : u.tx.get p = s.tx.get p)
    (unit : (u.cadence.get p).forced = ((s.cadence.get p).forced ||
      decide ((s.portPol p).dmax.toNat ≤ (s.cadence.get p).owed.length))) :
    u.counters.read (.line p .forcedEntries) = (s.counters.read (.line p .forcedEntries)).add
      (if (s.cadence.get p).forced = false ∧ (s.portPol p).dmax.toNat ≤ (s.cadence.get p).owed.length
        then 1 else 0) := by
  rw [h.counted, h.once.count]
  congr 1
  refine if_congr ⟨fun inside => ?_, fun due => ?_⟩ rfl rfl
  · obtain ⟨⟨q, debt⟩, member, rfl⟩ := List.mem_map.1 inside
    obtain ⟨-, unforced, reached, debt | paid⟩ := h.found q debt member
    · exact ⟨unforced, debt ▸ reached⟩
    · exact absurd idle paid.1
  · exact List.mem_map.2 ⟨_, h.entered p idle due.1 (by rw [unit]; simp [due.2]), rfl⟩

end EntriesFlipped

/-- The notices of a flip from `s` so far. -/
def NoticesFlipped (s : State) (rest : List FlipAct) (u : State) : Prop :=
  ∃ entries, EntriesFlipped s rest entries u ∧ ∀ q, ServiceFlipped s entries q u

end Sys2Proof.Machine
end

section
/-! SUPPORT. The acts of a flip on everything but the offers: the cells, and then what each act leaves of the classes,
the cadence units, the cells and the notices (R79, R87, R105, R110, R123). -/

namespace Sys2Proof.Machine

/-! ## Cells -/

/-- The cells that the queues of line `p` and the launch on it hold. -/
def State.sideCells (s : State) (p : Line) : Nat := s.queuedCells p + (s.tx.get p).cells

/-- R79, R80: in the course of a flip from `s` the cells of the frames that left the part have come back, and no other
cell has moved. -/
def CellsFlipped (s u : State) : Prop :=
  ∃ back : Line → Nat, (∀ p, u.sideCells p + back p = s.sideCells p) ∧
    u.pool.free = s.pool.free + back .n + back .s ∧
    (∀ p, u.pool.used.get p = s.pool.used.get p - back p) ∧ s.pool.Rearms u.pool

namespace CellsFlipped

variable {s u v : State}

theorem start (s : State) : CellsFlipped s s := ⟨fun _ => 0, fun _ => rfl, rfl, fun _ => rfl, rearms_refl _⟩

theorem of_eq (h : CellsFlipped s u) (pool : v.pool = u.pool) (cells : ∀ p, v.sideCells p = u.sideCells p) :
    CellsFlipped s v := by
  obtain ⟨back, left, rest⟩ := h
  exact ⟨back, fun p => by rw [cells, left], by rw [pool]; exact rest⟩

/-- Cells of line `p` have come back. -/
theorem returned (h : CellsFlipped s u) {p : Line} {k : Nat} (pool : u.pool.Returned p k v.pool)
    (own : v.sideCells p + k = u.sideCells p) (other : v.sideCells p.opposite = u.sideCells p.opposite) :
    CellsFlipped s v := by
  obtain ⟨back, left, free, used, rearms⟩ := h
  obtain ⟨free', used', rearms'⟩ := pool
  refine ⟨fun q => if q = p then back q + k else back q, fun q => ?_, ?_, fun q => ?_, rearms_trans rearms rearms'⟩
  · dsimp only
    obtain rfl | rfl := Line.eq_or_opposite p q
    · rw [if_pos rfl, ← left, ← own]
      omega
    · rw [if_neg (Line.opposite_ne p), other, left]
  · cases p <;> simp only [reduceCtorEq, if_true, if_false] <;> omega
  · dsimp only
    by_cases same : q = p
    · rw [used', same, PerLine.get_set_same, if_pos rfl, used, Nat.sub_sub]
    · rw [used', PerLine.get_set_ne _ _ _ _ same, if_neg same, used]

end CellsFlipped

/-! ## What an act knows and leaves -/

/-- The counters that a flip may move. -/
def FlipMoved (id : CounterId) : Prop :=
  (∃ p c, id = .egress p c .residence ∨ id = .egress p c .windowHolds) ∨
    ∃ p, id = .line p .forcedEntries ∨ id = .line p .noticeLost

theorem ClassMoved.flip {p : Line} {id : CounterId} (moved : ClassMoved p id) : FlipMoved id := .inl ⟨p, moved⟩

theorem CadenceMoved.flip {p : Line} {id : CounterId} (moved : CadenceMoved p id) : FlipMoved id := by
  obtain forced | ⟨q, lost⟩ := moved
  · exact .inr ⟨p, .inl forced⟩
  · exact .inr ⟨q, .inr lost⟩

/-- What stands in the course of a flip from `s`, with the acts `rest` still to come; `old` are the PORTPOL entries that
were active before. -/
structure Flipping (s : State) (old : Line → PortPol) (rest : List FlipAct) (u : State) : Prop where
  stands : Stands s u
  tx : ∀ p, TxFlipped s p u
  classes : ∀ p c, ClassFlipped s rest p c u
  cadence : ∀ p, CadenceFlipped s (old p) rest p u
  cells : CellsFlipped s u
  notices : NoticesFlipped s rest u
  counts : s.CountsOnly u FlipMoved

theorem flipSent_idle {s u : State} {q : Line} (idle : (u.tx.get q).launch = none) : s.flipSent q u = [] := by
  unfold State.flipSent Transmitter.serviceSent
  rw [idle]
  exact ite_self _

theorem idle_cells {t : Transmitter} (idle : t.launch = none) : t.cells = 0 := by
  unfold Transmitter.cells
  rw [idle]

theorem flipSent_start (s : State) (q : Line) : s.flipSent q s = [] := by
  unfold State.flipSent
  split
  · rename_i free
    unfold Transmitter.serviceSent
    rw [Option.isNone_iff_eq_none.1 free]
  · rfl

namespace Flipping

variable {s u v : State} {old : Line → PortPol} {rest : List FlipAct} {p : Line} {c : TrafficClass}

theorem start (heads : ∀ p c, s.HeadStands p c) (all : ∀ a, a ∈ rest) : Flipping s old rest s where
  stands := .refl s
  tx _ := .inl rfl
  classes p c := .start (heads p c) (all _) (all _)
  cadence _ := .start (all _)
  cells := .start s
  notices := ⟨[], .start, fun q => .start (flipSent_start s q)⟩
  counts := .of_eq rfl

/-- The act of an arbiter is over. -/
theorem skip (h : Flipping s old (.arbiter p :: rest) u) : Flipping s old rest u where
  stands := h.stands
  tx := h.tx
  classes q k := (h.classes q k).skip (by simp) (by simp)
  cadence q := (h.cadence q).skip (by simp)
  cells := h.cells
  notices := h.notices.imp fun _ known => known.imp_left EntriesFlipped.skip
  counts := h.counts

/-- The offers are no part of it. -/
theorem of_offers (h : Flipping s old rest u) (offers : PerLine Nat) :
    Flipping s old rest { u with offers := offers } where
  stands := h.stands.trans ⟨rfl, rfl, rfl⟩
  tx := h.tx
  classes q k := (h.classes q k).of_eq ⟨rfl, rfl, rfl⟩ rfl rfl id fun _ => rfl
  cadence q := (h.cadence q).of_eq rfl id
  cells := h.cells.of_eq rfl fun _ => rfl
  notices := h.notices.imp fun _ ⟨entries, service⟩ =>
    ⟨entries.of_eq (fun _ => id) (fun _ _ => rfl) (fun _ => rfl) rfl, fun q => (service q).of_eq rfl rfl rfl⟩
  counts := h.counts.trans (.of_eq rfl)

/-- What touches neither cadence units nor service queues nor transmitters, and counts for the classes of one line
alone, leaves the notices as they are. -/
theorem notices_of_eq (h : NoticesFlipped s rest u) (tx : v.tx = u.tx) (cadence : v.cadence = u.cadence)
    (service : v.service = u.service) (seq : v.noticeSeq = u.noticeSeq) (counts : u.CountsOnly v (ClassMoved p)) :
    NoticesFlipped s rest v :=
  h.imp fun _ ⟨entries, lines⟩ =>
    ⟨entries.of_eq (fun _ => by rw [tx]; exact id) (fun _ _ => by rw [cadence])
      (fun _ => counts _ (by simp [ClassMoved])) seq,
      fun q => (lines q).of_eq (by unfold State.flipSent; rw [tx]) (by rw [service])
        (counts _ (by simp [ClassMoved]))⟩

/-- A decision passes over class `c` of line `p`. -/
theorem passedOver (h : Flipping s old rest u) (p : Line) (c : TrafficClass) :
    Flipping s old rest (u.passedOver p c) := by
  obtain ⟨pa, ct, shape⟩ := passedOver_shape u p c
  have tx : (u.passedOver p c).tx = u.tx := by rw [shape]
  have counts := passedOver_counts u p c
  have stands : Stands u (u.passedOver p c) := by rw [shape]; exact ⟨rfl, rfl, rfl⟩
  refine ⟨h.stands.trans stands, fun q => ?_, fun q k => ?_, fun q => ?_, ?_, ?_,
    h.counts.trans (counts.mono fun _ => ClassMoved.flip)⟩
  · unfold TxFlipped
    rw [tx]
    exact h.tx q
  · by_cases own : (q, k) = (p, c)
    · obtain ⟨rfl, rfl⟩ := Prod.mk.inj own
      exact (h.classes q k).passedOver h.stands
    · refine (h.classes q k).of_eq stands (by rw [shape]; rfl) ?_ (by rw [tx]; exact id) fun j => ?_
      · unfold State.passedOver
        split
        · rfl
        · exact (recordHead_lane u p c _).2 q k own
      · unfold State.passedOver
        split
        · rfl
        · refine recordHead_counts u p c _ _ fun same => own ?_
          simp_all
  · exact (h.cadence q).of_eq (by rw [shape]) (by rw [tx]; exact id)
  · exact h.cells.of_eq (by rw [shape]) fun _ => by rw [shape]; rfl
  · exact notices_of_eq h.notices tx (by rw [shape]) (by rw [shape]) (by rw [shape]) counts

theorem passedOver_all (h : Flipping s old rest u) (p : Line) (cs : List TrafficClass) :
    Flipping s old rest (cs.foldl (State.passedOver p) u) :=
  List.foldlRecOn cs (State.passedOver p) (motive := Flipping s old rest) h fun _ k c _ => k.passedOver p c

/-- A launch takes the place of none. -/
theorem tx_launched (h : ∀ q, TxFlipped s q u) (idle : (u.tx.get p).launch = none) {x : Launch}
    (tx : v.tx = u.tx.set p { u.tx.get p with launch := some x }) :
    (∀ q, TxFlipped s q v) ∧ v.tx.get p ≠ s.tx.get p ∧ ∀ q, v.tx.get q = s.tx.get q → u.tx.get q = s.tx.get q := by
  have same : u.tx.get p = s.tx.get p := (h p).of_free (Option.isNone_iff_eq_none.2 idle)
  have own : (v.tx.get p).launch = some x := by rw [tx, PerLine.get_set_same]
  have other : ∀ q, q ≠ p → v.tx.get q = u.tx.get q := fun q ne => by rw [tx, PerLine.get_set_ne _ _ _ _ ne]
  refine ⟨fun q => ?_, fun e => ?_, fun q e => ?_⟩
  · by_cases at_p : q = p
    · subst at_p
      exact .inr ⟨by rw [← same, idle], by rw [own]; simp⟩
    · unfold TxFlipped
      rw [other q at_p]
      exact h q
  · rw [e, ← same, idle] at own
    exact absurd own (by simp)
  · by_cases at_p : q = p
    · subst at_p
      exact same
    · rw [← other q at_p, e]

/-- A cadence launch (R120). -/
theorem launchCadence (h : Flipping s old rest u) (idle : (u.tx.get p).launch = none) {t : Time} {owed : List Time}
    (due : (u.cadence.get p).owed = t :: owed) : Flipping s old rest (launchCadence p t owed u) := by
  obtain ⟨txs, started, back⟩ := tx_launched (v := Machine.launchCadence p t owed u) h.tx idle rfl
  have same : u.tx.get p = s.tx.get p := (h.tx p).of_free (Option.isNone_iff_eq_none.2 idle)
  have stands : Stands u (Machine.launchCadence p t owed u) := ⟨rfl, rfl, rfl⟩
  have other : ∀ q, q ≠ p → (Machine.launchCadence p t owed u).tx.get q = u.tx.get q := fun q ne =>
    PerLine.get_set_ne _ _ _ _ ne
  have unit : ∀ q, q ≠ p → (Machine.launchCadence p t owed u).cadence.get q = u.cadence.get q := fun q ne =>
    PerLine.get_set_ne _ _ _ _ ne
  have own : ((Machine.launchCadence p t owed u).tx.get p).cells = 0 ∧
      ((Machine.launchCadence p t owed u).tx.get p).serviceSent = [] := by
    have tx : (Machine.launchCadence p t owed u).tx.get p = _ := PerLine.get_set_same _ _ _
    rw [tx]
    exact ⟨rfl, rfl⟩
  refine ⟨h.stands.trans stands, txs, fun q k => ?_, fun q => ?_, ?_, ?_, h.counts.trans (.of_eq rfl)⟩
  · exact (h.classes q k).of_eq stands rfl rfl (back q) fun _ => rfl
  · by_cases at_p : q = p
    · subst at_p
      exact (h.cadence q).pays due same started
    · exact (h.cadence q).of_eq (unit q at_p) (back q)
  · refine h.cells.of_eq rfl fun q => ?_
    unfold State.sideCells
    by_cases at_p : q = p
    · subst at_p
      rw [own.1, idle_cells idle]
      rfl
    · rw [other q at_p]
      rfl
  · obtain ⟨entries, known, lines⟩ := h.notices
    refine ⟨entries, known.of_eq back (fun q e => ?_) (fun _ => rfl) rfl, fun q => (lines q).of_eq ?_ rfl rfl⟩
    · rw [unit q]
      rintro rfl
      exact started e
    · by_cases at_p : q = p
      · subst at_p
        rw [flipSent_idle idle]
        unfold State.flipSent
        rw [own.2, ite_self]
      · unfold State.flipSent
        rw [other q at_p]

/-- The launch of a service frame (R112). -/
theorem launchService (h : Flipping s old rest u) (idle : (u.tx.get p).launch = none) {e : ServiceEntry}
    {later : List ServiceEntry} (queue : u.service.get p = e :: later) :
    Flipping s old rest (launchService p e later u) := by
  obtain ⟨txs, started, back⟩ := tx_launched (v := Machine.launchService p e later u) h.tx idle rfl
  have same : u.tx.get p = s.tx.get p := (h.tx p).of_free (Option.isNone_iff_eq_none.2 idle)
  have stands : Stands u (Machine.launchService p e later u) := ⟨rfl, rfl, rfl⟩
  have other : ∀ q, q ≠ p → (Machine.launchService p e later u).tx.get q = u.tx.get q := fun q ne =>
    PerLine.get_set_ne _ _ _ _ ne
  have own : ((Machine.launchService p e later u).tx.get p).cells = 0 ∧
      ((Machine.launchService p e later u).tx.get p).serviceSent = [e] := by
    have tx : (Machine.launchService p e later u).tx.get p = _ := PerLine.get_set_same _ _ _
    rw [tx]
    exact ⟨rfl, rfl⟩
  refine ⟨h.stands.trans stands, txs, fun q k => ?_, fun q => ?_, ?_, ?_, h.counts.trans (.of_eq rfl)⟩
  · exact (h.classes q k).of_eq stands rfl rfl (back q) fun _ => rfl
  · exact (h.cadence q).of_eq rfl (back q)
  · refine h.cells.of_eq rfl fun q => ?_
    unfold State.sideCells
    by_cases at_p : q = p
    · subst at_p
      rw [own.1, idle_cells idle]
      rfl
    · rw [other q at_p]
      rfl
  · obtain ⟨entries, known, lines⟩ := h.notices
    refine ⟨entries, known.of_eq back (fun _ _ => rfl) (fun _ => rfl) rfl, fun q => ?_⟩
    by_cases at_p : q = p
    · subst at_p
      refine (lines q).sends queue (flipSent_idle idle) ?_ (PerLine.get_set_same _ _ _) rfl
      unfold State.flipSent
      rw [own.2, if_pos]
      rw [State.txFree, ← same, idle]
      rfl
    · refine (lines q).of_eq ?_ (PerLine.get_set_ne _ _ _ _ at_p) rfl
      unfold State.flipSent
      rw [other q at_p]

end Flipping

end Sys2Proof.Machine
end

section
/-! SUPPORT. The acts of a flip, each on everything but the offers: the launch of a head, a whole decision, and the
acts of the four kinds of blocks (R79, R85, R87, R105, R109, R123). -/

namespace Sys2Proof.Machine

/-- What acts on the egress side of one line leaves the cells of the other. -/
theorem sideCells_opposite {p : Line} {u v : State} (reach : EgressReach p u v) :
    v.sideCells p.opposite = u.sideCells p.opposite := by
  unfold State.sideCells
  rw [queuedCells_congr _ _ reach.queues, reach.tx]

/-- The acts of a cadence unit at a flip leave the frames and their heads. -/
theorem cadenceFlip_frames (u : State) (p : Line) (old : PortPol) :
    (cadenceFlip p old u).pool = u.pool ∧ (cadenceFlip p old u).queues = u.queues ∧
      (cadenceFlip p old u).pacer = u.pacer := by
  rw [cadenceFlip_started]
  obtain ⟨_, _, _, _, _, shape⟩ := forcedTest_shape
    (u.setCadence p { u.cadence.get p with timer := u.flipTimer p old }) p
  rw [shape]
  exact ⟨rfl, rfl, rfl⟩

/-- R84, R85: of the cells of the launch of a head, those of the late heads behind it return. -/
theorem launchHead_returned {u : State} {p : Line} {c : TrafficClass} {d : Descriptor} {q : List Descriptor}
    (idle : (u.tx.get p).launch = none) (queue : u.queue p c = d :: q) :
    ∃ k, u.pool.Returned p k (launchHead p c d q u).pool ∧
      (launchHead p c d q u).sideCells p + k = u.sideCells p := by
  obtain ⟨k, pool, cells⟩ := newHead_returned (u.launching p c d q) p c
  rw [← launchHead_eq] at pool cells
  have moved := queuedCells_moved (s := u) (t := u.launching p c d q) (p := p) (c := c)
    fun _ other => launching_queue_ne u p c d q other
  rw [launching_queue, queue, List.map_cons, List.sum_cons] at moved
  have own : ((launchHead p c d q u).tx.get p).cells = d.cells := by
    rw [launchHead_eq, newHead_tx, show (u.launching p c d q).tx.get p = _ from PerLine.get_set_same _ _ _]
    rfl
  refine ⟨k, pool, ?_⟩
  unfold State.sideCells
  rw [own, idle_cells idle]
  omega

namespace Flipping

variable {s u v : State} {old : Line → PortPol} {rest : List FlipAct} {p : Line} {c : TrafficClass}

/-- The launch of a head (R84). -/
theorem launchHead (h : Flipping s old rest u) (idle : (u.tx.get p).launch = none) {d : Descriptor}
    {q : List Descriptor} (queue : u.queue p c = d :: q) : Flipping s old rest (launchHead p c d q u) := by
  have eq := launchHead_eq u p c d q
  have reach := launchHead_reach u p c d q
  have stands := Stands.of_reach reach
  have tx : (Machine.launchHead p c d q u).tx = (u.launching p c d q).tx := by rw [eq, newHead_tx]
  obtain ⟨txs, started, back⟩ := tx_launched h.tx idle tx
  have counts : u.CountsOnly (Machine.launchHead p c d q u) fun id => id = .egress p c .residence ∨
      id = .egress p c .windowHolds := by
    rw [eq]
    exact newHead_counts (u.launching p c d q) p c
  obtain ⟨_, _, _, _, _, shape⟩ := newHead_shape (u.launching p c d q) p c
  have other : ∀ l, l ≠ p → (Machine.launchHead p c d q u).tx.get l = u.tx.get l := fun l ne => by
    rw [tx]
    exact PerLine.get_set_ne _ _ _ _ ne
  refine ⟨h.stands.trans stands, txs, fun l k => ?_, fun l => (h.cadence l).of_eq (by rw [eq, shape]; rfl) (back l),
    ?_, ?_, h.counts.trans (counts.mono fun _ moved => ClassMoved.flip ⟨c, moved⟩)⟩
  · by_cases own : (l, k) = (p, c)
    · obtain ⟨rfl, rfl⟩ := Prod.mk.inj own
      exact (h.classes l k).launches h.stands queue started
    · refine (h.classes l k).of_eq stands ?_ ?_ (back l) fun j => counts _ fun moved => own ?_
      · rw [eq, newHead_queue_ne _ p c l k own]
        exact queue_setQueue_ne u l p c k q own
      · rw [eq, newHead_lane_ne _ p c l k own]
        exact lane_setLane_ne (u.setQueue p c q) l p c k _ own
      · simp only [CounterId.egress.injEq] at moved
        obtain ⟨rfl, rfl, -⟩ | ⟨rfl, rfl, -⟩ := moved <;> rfl
  · obtain ⟨k, pool, cells⟩ := launchHead_returned idle queue
    exact h.cells.returned pool cells (sideCells_opposite reach)
  · obtain ⟨entries, known, lines⟩ := h.notices
    refine ⟨entries, known.of_eq back (fun _ _ => by rw [eq, shape]; rfl) (fun _ => counts _ (by simp))
      (by rw [eq, shape]; rfl), fun l => (lines l).of_eq ?_ (by rw [eq, shape]; rfl) (counts _ (by simp))⟩
    by_cases at_p : l = p
    · subst at_p
      rw [flipSent_idle idle]
      unfold State.flipSent
      rw [tx, show (u.launching l c d q).tx.get l = _ from PerLine.get_set_same _ _ _]
      exact ite_self _
    · unfold State.flipSent
      rw [other l at_p]

/-- What a decision leads to. -/
theorem decides (h : Flipping s old rest u) (idle : (u.tx.get p).launch = none) (decision : Decision p u v) :
    Flipping s old rest v := by
  have passed := fun cs => h.passedOver_all p cs
  have still : ∀ cs : List TrafficClass, ((cs.foldl (State.passedOver p) u).tx.get p).launch = none := fun cs => by
    obtain ⟨_, _, shape⟩ := passedOver_fold_shape p cs u
    rw [shape]
    exact idle
  cases decision with
  | quiet owed service closed => exact passed classesDown
  | cadence front t owed due =>
    refine (passed front).launchCadence (still front) (t := t) ?_
    obtain ⟨_, _, shape⟩ := passedOver_fold_shape p front u
    rw [shape]
    exact due
  | service e later queue => exact h.launchService idle queue
  | head front c d q queue =>
    refine (passed (front ++ [c])).launchHead (still _) ?_
    obtain ⟨_, _, shape⟩ := passedOver_fold_shape p (front ++ [c]) u
    rw [shape]
    exact queue

/-- R109: the arbiter of line `p` is offered its decision, or takes it. -/
theorem arbiter (h : Flipping s old (.arbiter p :: rest) u) (s0 : State) :
    Flipping s old rest (flipAct s0 rest (.arbiter p) u) := by
  unfold flipAct
  dsimp only
  split
  · rw [offer_eq]
    exact h.skip.of_offers _
  · unfold decideNow
    dsimp only
    split
    · rename_i may
      have free := Option.isNone_iff_eq_none.1 (Bool.and_eq_true_iff.1 may).2
      have decided := h.skip.decides free (arbitrate_decision u p)
      split
      · exact decided
      · exact decided.of_offers _
    · exact h.skip

/-- R87: class queue `c` of line `p` has its head checked for residence. -/
theorem queue (h : Flipping s old (.queue p c :: rest) u) (fresh : .queue p c ∉ rest) :
    Flipping s old rest (checkHead p c u) := by
  have reach := checkHead_reach u p c
  have stands := Stands.of_reach reach
  obtain ⟨_, _, _, _, _, shape⟩ := checkHead_shape u p c
  have tx : (checkHead p c u).tx = u.tx := by rw [shape]
  have counts : u.CountsOnly (checkHead p c u) fun id => id = .egress p c .residence ∨
      id = .egress p c .windowHolds := by
    obtain ⟨eq, -⟩ | ⟨eq, -⟩ := checkHead_cases u p c <;> rw [eq]
    · exact newHead_counts u p c
    · exact .of_eq rfl
  refine ⟨h.stands.trans stands, fun l => ?_, fun l k => ?_, fun l => ?_, ?_, ?_,
    h.counts.trans (counts.mono fun _ moved => ClassMoved.flip ⟨c, moved⟩)⟩
  · unfold TxFlipped
    rw [tx]
    exact h.tx l
  · by_cases own : (l, k) = (p, c)
    · obtain ⟨rfl, rfl⟩ := Prod.mk.inj own
      exact (h.classes l k).checks fresh h.stands
    · have apart : FlipAct.queue l k ≠ .queue p c := fun same => own (by simpa using same)
      refine ((h.classes l k).skip apart (by simp)).of_eq stands ?_ ?_ (by rw [tx]; exact id) fun j =>
        counts _ fun moved => own ?_
      · obtain ⟨eq, -⟩ | ⟨eq, -⟩ := checkHead_cases u p c <;> rw [eq]
        exact newHead_queue_ne u p c l k own
      · obtain ⟨eq, -⟩ | ⟨eq, -⟩ := checkHead_cases u p c <;> rw [eq]
        exact newHead_lane_ne u p c l k own
      · simp only [CounterId.egress.injEq] at moved
        obtain ⟨rfl, rfl, -⟩ | ⟨rfl, rfl, -⟩ := moved <;> rfl
  · exact ((h.cadence l).skip (by simp)).of_eq (by rw [shape]) (by rw [tx]; exact id)
  · obtain ⟨eq, -⟩ | ⟨eq, -⟩ := checkHead_cases u p c
    · obtain ⟨k, pool, cells⟩ := newHead_returned u p c
      rw [eq] at tx reach ⊢
      refine h.cells.returned pool ?_ (sideCells_opposite reach)
      unfold State.sideCells
      rw [tx]
      omega
    · rw [eq]
      exact h.cells
  · exact notices_of_eq (h.notices.imp fun _ known => known.imp_left EntriesFlipped.skip) tx (by rw [shape])
      (by rw [shape]) (by rw [shape]) (p := p) (counts.mono fun _ moved => ⟨c, moved⟩)

/-- R105: class `c` of line `p` has its head evaluated. -/
theorem head (h : Flipping s old (.head p c :: rest) u) : Flipping s old rest (evaluateOffer p c u) := by
  obtain ⟨_, _, _, shape⟩ := evaluateOffer_shape u p c
  have tx : (evaluateOffer p c u).tx = u.tx := by rw [shape]
  have stands : Stands u (evaluateOffer p c u) := .of_reach (evaluateOffer_reach u p c)
  have counts := evaluateOffer_classMoved u p c
  refine ⟨h.stands.trans stands, fun l => ?_, fun l k => ?_, fun l => ?_, ?_, ?_,
    h.counts.trans (counts.mono fun _ => ClassMoved.flip)⟩
  · unfold TxFlipped
    rw [tx]
    exact h.tx l
  · by_cases own : (l, k) = (p, c)
    · obtain ⟨rfl, rfl⟩ := Prod.mk.inj own
      exact (h.classes l k).evaluates h.stands
    · have apart : FlipAct.head l k ≠ .head p c := fun same => own (by simpa using same)
      refine ((h.classes l k).skip (by simp) apart).of_eq stands (by rw [shape]; rfl)
        (evaluateOffer_lane_ne u p c k l own) (by rw [tx]; exact id) fun j => ?_
      rw [evaluateOffer_counters]
      refine recordHead_counts u p c _ _ fun same => own ?_
      simp_all
  · exact ((h.cadence l).skip (by simp)).of_eq (by rw [shape]) (by rw [tx]; exact id)
  · exact h.cells.of_eq (by rw [shape]) fun _ => by rw [shape]; rfl
  · exact notices_of_eq (h.notices.imp fun _ known => known.imp_left EntriesFlipped.skip) tx (by rw [shape])
      (by rw [shape]) (by rw [shape]) counts

/-- R123: the cadence unit of line `p` acts. -/
theorem unit (h : Flipping s old (.cadence p :: rest) u) (fresh : .cadence p ∉ rest)
    (some : 1 ≤ (s.portPol p).dmax.toNat) : Flipping s old rest (cadenceFlip p (old p) u) := by
  have tx := CadenceFlipped.cadenceFlip_tx u p (old p)
  have reach := cadenceFlip_reach u p (old p)
  have stands := Stands.of_reach reach
  have units := cadenceFlip_cadence u p (old p)
  have counts := cadenceFlip_counts u p (old p)
  obtain ⟨pool, queues, pacer⟩ := cadenceFlip_frames u p (old p)
  refine ⟨h.stands.trans stands, fun l => ?_, fun l k => ?_, fun l => ?_, ?_, ?_,
    h.counts.trans (counts.mono fun _ => CadenceMoved.flip)⟩
  · unfold TxFlipped
    rw [tx]
    exact h.tx l
  · exact ((h.classes l k).skip (by simp) (by simp)).of_eq stands (by unfold State.queue; rw [queues])
      (by unfold State.lane; rw [pacer]) (by rw [tx]; exact id) fun _ => counts _ (by simp [CadenceMoved])
  · by_cases own : l = p
    · subst own
      exact (h.cadence l).tests fresh h.stands
    · exact ((h.cadence l).skip (by simp [own])).of_eq (by rw [units, PerLine.get_set_ne _ _ _ _ own])
        (by rw [tx]; exact id)
  · refine h.cells.of_eq pool fun l => ?_
    unfold State.sideCells
    rw [queuedCells_congr u l (by rw [queues]), tx]
  · obtain ⟨entries, known, lines⟩ := h.notices
    by_cases forces : u.forces p
    · obtain ⟨notifies, counted⟩ := cadenceFlip_notifies u p (old p) forces
      exact ⟨entries ++ [(p, (u.cadence.get p).owed.length)],
        known.enters fresh ((h.cadence p).entry h.stands some forces) tx
          (fun l other => by rw [units, PerLine.get_set_ne _ _ _ _ other]) counted notifies.1,
        fun l => (lines l).notified h.stands known.seq _ notifies tx⟩
    · rw [cadenceFlip_unforced u p (old p) forces] at units ⊢
      refine ⟨entries, known.skip.of_eq (fun _ => id) (fun l _ => ?_) (fun _ => rfl) rfl,
        fun l => (lines l).of_eq rfl rfl rfl⟩
      by_cases own : l = p
      · subst own
        rw [setCadence_cadence, PerLine.get_set_same]
      · rw [setCadence_cadence, PerLine.get_set_ne _ _ _ _ own]

/-- One act of the flip. -/
theorem act {s0 : State} {a : FlipAct} (h : Flipping s (fun p => s0.portPol p) (a :: rest) u) (fresh : a ∉ rest)
    (some : ∀ p, 1 ≤ (s.portPol p).dmax.toNat) :
    Flipping s (fun p => s0.portPol p) rest (flipAct s0 rest a u) := by
  cases a with
  | queue p c => exact h.queue fresh
  | head p c => exact h.head
  | cadence p => exact h.unit fresh (some p)
  | arbiter p => exact h.arbiter s0

end Flipping

end Sys2Proof.Machine
end

section
/-! SUPPORT. The offers of a flip (R100, R109): which arbiters are offered a decision, and that one which is not has
nothing to send. -/

namespace Sys2Proof.Machine

/-- Line `p` has nothing to send, but for heads that are still to be evaluated. -/
structure SilentFlipped (s : State) (rest : List FlipAct) (p : Line) (u : State) : Prop where
  service : u.service.get p = []
  owed : (u.cadence.get p).owed = []
  classes : ∀ c, u.queue p c = [] ∨ s.Allows p c = false ∨ .head p c ∈ rest

/-- The offers of line `p` in the course of a flip from `s`, with the acts `rest` still to come: a line that hears none
keeps them, and one that hears them has started a launch, has been offered one more, or has nothing to send once its
arbiter has acted. -/
structure OfferFlipped (s : State) (rest : List FlipAct) (p : Line) (u : State) : Prop where
  deaf : s.isUp p = false ∨ s.txFree p = false → u.offers.get p = s.offers.get p
  heard : s.isUp p = true → s.txFree p = true →
    ((u.tx.get p).launch ≠ none ∧ u.offers.get p = 0) ∨
      ((u.tx.get p).launch = none ∧
        (s.offers.get p < u.offers.get p ∨
          (u.offers.get p = s.offers.get p ∧ (.arbiter p ∉ rest → SilentFlipped s rest p u))))

section

variable {s u v : State} {old : Line → PortPol} {rest : List FlipAct} {a : FlipAct} {p q : Line} {c : TrafficClass}

/-- R109: an arbiter that can hear an offer is offered one more decision. -/
theorem offered_more (up : u.isUp p = true) (free : u.txFree p = true) :
    (u.offered p).get p = u.offers.get p + 1 := by
  rw [State.offered, if_pos (by rw [up, free]; rfl), PerLine.get_set_same]

theorem offered_ne (u : State) (other : p ≠ q) : (u.offered q).get p = u.offers.get p := by
  unfold State.offered
  split
  · exact PerLine.get_set_ne _ _ _ _ other
  · rfl

theorem made_noMore {b : Prop} [Decidable b] (made : v.offers = if b then u.offered q else u.offers) :
    OffersNoMore u v p := by
  split at made
  · exact offered_noMore u q _ p made
  · exact .inl (by rw [made])

/-- R100: an evaluation that makes no offer to an arbiter that could hear it finds no head, or a closed one. -/
theorem unoffered_closed (evaluated : v.Evaluated p c)
    (offers : v.offers = if (v.lane p c).head = .eligible then u.offered p else u.offers) (up : u.isUp p = true)
    (free : u.txFree p = true) (same : v.offers.get p = u.offers.get p) :
    v.queue p c = [] ∨ v.Allows p c = false := by
  obtain ⟨head, -⟩ := evaluated
  by_contra opens
  obtain ⟨queued, allowed⟩ := not_or.1 opens
  rw [if_neg queued, if_pos (by simpa using allowed)] at head
  rw [offers, if_pos head, offered_more up free] at same
  omega

theorem idle_of_free (h : Flipping s old rest u) (free : u.txFree p = true) : u.tx.get p = s.tx.get p :=
  (h.tx p).of_free free

theorem deaf_stays (h : Flipping s old rest u) (deaf : s.isUp p = false ∨ s.txFree p = false) :
    u.isUp p = false ∨ u.txFree p = false := by
  obtain down | busy := deaf
  · exact .inl ((h.stands.isUp p).trans down)
  · refine .inr (Bool.eq_false_iff.2 fun free => ?_)
    have same := idle_of_free h free
    rw [State.txFree, same] at free
    exact absurd (busy.symm.trans free) (by simp)

/-! ## Acts other than the line's own arbiter's -/

namespace OfferFlipped

theorem start (arbiter : .arbiter p ∈ rest) : OfferFlipped s rest p s where
  deaf _ := rfl
  heard _ free := .inr ⟨Option.isNone_iff_eq_none.1 free, .inr ⟨rfl, fun out => absurd arbiter out⟩⟩

/-- An act that starts no launch on the line, makes an offer or none, and keeps silence where it makes none. -/
theorem step (h : OfferFlipped s (a :: rest) p u) (known : Flipping s old (a :: rest) u) (apart : .arbiter p ≠ a)
    (tx : v.tx.get p = u.tx.get p) (offers : OffersNoMore u v p)
    (silent : u.isUp p = true → u.txFree p = true → v.offers.get p = u.offers.get p →
      SilentFlipped s (a :: rest) p u → SilentFlipped s rest p v) : OfferFlipped s rest p v where
  deaf away := by
    rw [← h.deaf away]
    obtain same | ⟨up, free, -⟩ := offers
    · exact same
    · exact absurd (deaf_stays known away) (by simp [up, free])
  heard up free := by
    rw [tx]
    obtain ⟨busy, none⟩ | ⟨idle, more | ⟨still, quiet⟩⟩ := h.heard up free
    · refine .inl ⟨busy, ?_⟩
      obtain same | ⟨-, free, -⟩ := offers
      · exact same.trans none
      · exact absurd (Option.isNone_iff_eq_none.1 free) busy
    · refine .inr ⟨idle, .inl ?_⟩
      obtain same | ⟨-, -, more'⟩ := offers <;> omega
    · refine .inr ⟨idle, ?_⟩
      obtain same | ⟨-, -, more⟩ := offers
      · exact .inr ⟨same.trans still, fun out => silent ((known.stands.isUp p).trans up)
          (Option.isNone_iff_eq_none.2 idle) same (quiet (by simp [apart, out]))⟩
      · exact .inl (by omega)

/-- An act that leaves the line as it is. -/
theorem of_eq (h : OfferFlipped s (a :: rest) p u) (known : Flipping s old (a :: rest) u) (other : a.line ≠ p)
    (tx : v.tx.get p = u.tx.get p) (offers : v.offers.get p = u.offers.get p)
    (service : v.service.get p = u.service.get p) (cadence : v.cadence.get p = u.cadence.get p)
    (queues : v.queues.get p = u.queues.get p) : OfferFlipped s rest p v := by
  have apart : .arbiter p ≠ a := by
    rintro rfl
    exact other rfl
  refine h.step known apart tx (.inl offers) fun _ _ _ silent => ⟨?_, ?_, fun c => ?_⟩
  · rw [service, silent.service]
  · rw [cadence, silent.owed]
  · refine (silent.classes c).imp (fun empty => ?_) (.imp_right fun inside => ?_)
    · rw [State.queue, queues]
      exact empty
    · refine (List.mem_cons.1 inside).resolve_left ?_
      rintro rfl
      exact other rfl

/-- The evaluation of a head at the flip. -/
theorem head (h : OfferFlipped s (.head q c :: rest) p u) (known : Flipping s old (.head q c :: rest) u) :
    OfferFlipped s rest p (evaluateOffer q c u) := by
  obtain ⟨_, _, _, shape⟩ := evaluateOffer_shape u q c
  have tx : (evaluateOffer q c u).tx = u.tx := by rw [shape]
  have after := known.head
  have made := evaluateOffer_offers u q c
  refine h.step known (by simp) (by rw [tx]) (made_noMore made) fun up free same silent => ⟨?_, ?_, fun k => ?_⟩
  · rw [shape]
    exact silent.service
  · rw [shape]
    exact silent.owed
  · by_cases own : (p, k) = (q, c)
    · obtain ⟨rfl, rfl⟩ := Prod.mk.inj own
      rw [← (after.classes p k).allows after.stands (by rw [tx, idle_of_free known free])]
      exact (unoffered_closed (evaluateOffer_evaluated u p k) made up free same).imp_right .inl
    · have apart : FlipAct.head p k ≠ .head q c := fun e => own (by simpa using e)
      rw [shape]
      exact (silent.classes k).imp_right (.imp_right fun inside => (List.mem_cons.1 inside).resolve_left apart)

/-- The check of a head at the flip. -/
theorem queue (h : OfferFlipped s (.queue q c :: rest) p u) (known : Flipping s old (.queue q c :: rest) u)
    (fresh : .queue q c ∉ rest) : OfferFlipped s rest p (checkHead q c u) := by
  have after := known.queue fresh
  have later : ∀ k, FlipAct.head p k ∈ FlipAct.queue q c :: rest → .head p k ∈ rest := fun k inside => by
    simpa using inside
  obtain ⟨eq, -⟩ | ⟨eq, -⟩ := checkHead_cases u q c <;> rw [eq] at after ⊢
  · obtain ⟨_, _, _, _, _, shape⟩ := newHead_shape u q c
    have tx := newHead_tx u q c
    have made := newHead_offers u q c
    refine h.step known (by simp) (by rw [tx]) (made_noMore made) fun up free same silent => ⟨?_, ?_, fun k => ?_⟩
    · rw [shape]
      exact silent.service
    · rw [shape]
      exact silent.owed
    · by_cases own : (p, k) = (q, c)
      · obtain ⟨rfl, rfl⟩ := Prod.mk.inj own
        rw [← (after.classes p k).allows after.stands (by rw [tx, idle_of_free known free])]
        exact (unoffered_closed (newHead_evaluated u p k) made up free same).imp_right .inl
      · rw [newHead_queue_ne u q c p k own]
        exact (silent.classes k).imp_right (.imp_right (later k))
  · exact h.step known (by simp) rfl (.inl rfl) fun _ _ _ silent =>
      ⟨silent.service, silent.owed, fun k => (silent.classes k).imp_right (.imp_right (later k))⟩

/-- The acts of a cadence unit at the flip. -/
theorem unit (h : OfferFlipped s (.cadence q :: rest) p u) (known : Flipping s old (.cadence q :: rest) u)
    (entry : PortPol) : OfferFlipped s rest p (cadenceFlip q entry u) := by
  obtain ⟨offers, service⟩ := cadenceFlip_offers u q entry p
  refine h.step known (by simp) (by rw [CadenceFlipped.cadenceFlip_tx]) offers fun _ free same silent =>
    ⟨(service same free).trans silent.service, ?_, fun k => ?_⟩
  · rw [cadenceFlip_cadence]
    by_cases own : p = q
    · subst own
      rw [PerLine.get_set_same]
      exact silent.owed
    · rw [PerLine.get_set_ne _ _ _ _ own]
      exact silent.owed
  · rw [State.queue, (cadenceFlip_frames u q entry).2.1]
    exact (silent.classes k).imp_right (.imp_right fun inside => by simpa using inside)

end OfferFlipped

/-! ## Decisions -/

/-- A decision of one arbiter leaves the offers and the service queue of the other line. -/
theorem Decision.apart (decision : Decision q u v) (other : p ≠ q) :
    v.offers.get p = u.offers.get p ∧ v.service.get p = u.service.get p := by
  have passed : ∀ cs : List TrafficClass, (cs.foldl (State.passedOver q) u).offers = u.offers ∧
      (cs.foldl (State.passedOver q) u).service = u.service := fun cs => by
    obtain ⟨_, _, shape⟩ := passedOver_fold_shape q cs u
    rw [shape]
    exact ⟨rfl, rfl⟩
  cases decision with
  | quiet owed service closed => rw [(passed classesDown).1, (passed classesDown).2]; exact ⟨rfl, rfl⟩
  | cadence front t owed due => exact ⟨congrArg (·.get p) (passed front).1, congrArg (·.get p) (passed front).2⟩
  | service e later queue => exact ⟨rfl, PerLine.get_set_ne _ _ _ _ other⟩
  | head front c d later queue =>
    obtain ⟨offers, service⟩ := passed (front ++ [c])
    generalize (front ++ [c]).foldl (State.passedOver q) u = m at *
    obtain ⟨_, _, _, _, _, shape⟩ := newHead_shape (m.launching q c d later) q c
    refine ⟨?_, ?_⟩
    · rw [launchHead_eq, newHead_offers, ← offers]
      split
      · exact offered_ne (m.launching q c d later) other
      · rfl
    · rw [launchHead_eq, shape, ← service]
      rfl

/-- R110: a decision on a line that hears offers starts a launch, or finds nothing to send but heads that are still to
be evaluated, and leaves the offers. -/
theorem Decision.silent (decision : Decision p u v) (known : Flipping s old rest u) (free : u.txFree p = true) :
    (v.tx.get p).launch ≠ none ∨
      (v.tx.get p = u.tx.get p ∧ v.offers = u.offers ∧ SilentFlipped s rest p v) := by
  obtain ⟨tx, owed, service, closed, eq⟩ | launched := decision.tx
  · obtain ⟨_, _, shape⟩ := passedOver_fold_shape p classesDown u
    rw [← eq] at shape
    refine .inr ⟨by rw [tx], by rw [shape], by rw [shape]; exact service, by rw [shape]; exact owed, fun c => ?_⟩
    rw [shape]
    refine (closed c (by revert c; decide)).imp_right fun shut => ?_
    by_cases inside : FlipAct.head p c ∈ rest
    · exact .inr inside
    · have evaluated := (known.classes p c).evaluated inside
      rw [← (known.classes p c).allows known.stands (idle_of_free known free), ← evaluated.decision,
        openAtDecision_eq]
      exact .inl shut
  · exact .inl launched

/-- R109: the act of the arbiter of line `p`. -/
theorem OfferFlipped.arbiter (h : OfferFlipped s (.arbiter p :: rest) p u)
    (known : Flipping s old (.arbiter p :: rest) u) (s0 : State) :
    OfferFlipped s rest p (flipAct s0 rest (.arbiter p) u) := by
  have unheard : ∀ {v}, v.offers = u.offers → v.tx = u.tx → ¬ (u.isUp p && u.txFree p) = true →
      OfferFlipped s rest p v := fun {v} offers tx may => by
    refine ⟨by rw [offers]; exact h.deaf, fun up free => ?_⟩
    rw [offers, tx]
    refine (h.heard up free).imp_right fun ⟨idle, _⟩ => absurd ?_ may
    rw [known.stands.isUp, up, State.txFree, idle]
    rfl
  have hears : (u.isUp p && u.txFree p) = true → s.isUp p = true ∧ s.txFree p = true := fun may => by
    obtain ⟨up, free⟩ := Bool.and_eq_true_iff.1 may
    exact ⟨(known.stands.isUp p).symm.trans up, by rw [State.txFree, ← idle_of_free known free]; exact free⟩
  have started : s.isUp p = true ∧ s.txFree p = true → ¬ (s.isUp p = false ∨ s.txFree p = false) :=
    fun ⟨up, free⟩ deaf => by simp [up, free] at deaf
  have some : (u.isUp p && u.txFree p) = true → s.offers.get p ≤ u.offers.get p := fun may => by
    have idle := Option.isNone_iff_eq_none.1 (Bool.and_eq_true_iff.1 may).2
    obtain ⟨busy, -⟩ | ⟨-, more | ⟨still, -⟩⟩ := h.heard (hears may).1 (hears may).2
    · exact absurd idle busy
    · exact more.le
    · exact still.ge
  unfold flipAct
  dsimp only
  split
  · rw [offer_eq]
    by_cases may : (u.isUp p && u.txFree p) = true
    · obtain ⟨up, free⟩ := Bool.and_eq_true_iff.1 may
      refine ⟨fun deaf => absurd deaf (started (hears may)), fun _ _ =>
        .inr ⟨Option.isNone_iff_eq_none.1 free, .inl ?_⟩⟩
      exact (Nat.lt_succ_of_le (some may)).trans_eq (offered_more up free).symm
    · exact unheard (if_neg may) rfl may
  · unfold decideNow
    dsimp only
    by_cases may : (u.isUp p && u.txFree p) = true
    · rw [if_pos may]
      have free := (Bool.and_eq_true_iff.1 may).2
      have idle := Option.isNone_iff_eq_none.1 free
      refine ⟨fun deaf => absurd deaf (started (hears may)), fun _ _ => ?_⟩
      obtain launched | ⟨tx, offers, silent⟩ := (arbitrate_decision u p).silent known.skip free
      · have busy : ¬ (arbitrate p u).txFree p = true := fun free => launched (Option.isNone_iff_eq_none.1 free)
        rw [if_neg busy]
        exact .inl ⟨launched, PerLine.get_set_same _ _ _⟩
      · have still : (arbitrate p u).txFree p = true := by
          rw [State.txFree, tx]
          exact free
        rw [if_pos still, tx, offers]
        refine .inr ⟨idle, (some may).lt_or_eq.imp_right fun still => ⟨still.symm, fun _ => silent⟩⟩
    · rw [if_neg may]
      exact unheard rfl rfl may

/-- The act of the arbiter of the other line. -/
theorem OfferFlipped.other_arbiter (h : OfferFlipped s (.arbiter q :: rest) p u)
    (known : Flipping s old (.arbiter q :: rest) u) (other : p ≠ q) (s0 : State) :
    OfferFlipped s rest p (flipAct s0 rest (.arbiter q) u) := by
  obtain rfl := (Line.eq_or_opposite q p).resolve_left other
  have reach := flipAct_reach u s0 rest (.arbiter q)
  obtain ⟨offers, service⟩ : (flipAct s0 rest (.arbiter q) u).offers.get q.opposite = u.offers.get q.opposite ∧
      (flipAct s0 rest (.arbiter q) u).service.get q.opposite = u.service.get q.opposite := by
    unfold flipAct
    dsimp only
    split
    · rw [offer_eq]
      exact ⟨offered_ne u other, rfl⟩
    · have apart := (arbitrate_decision u q).apart other
      unfold decideNow
      dsimp only
      split
      · split
        · exact apart
        · exact ⟨(PerLine.get_set_ne _ _ _ _ other).trans apart.1, apart.2⟩
      · exact ⟨rfl, rfl⟩
  exact h.of_eq known (fun e => other e.symm) reach.tx offers service reach.cadence reach.queues

/-! ## Every act -/

/-- What stands in the course of a flip, the offers included. -/
def Flips (s : State) (old : Line → PortPol) (rest : List FlipAct) (u : State) : Prop :=
  Flipping s old rest u ∧ ∀ p, OfferFlipped s rest p u

theorem Flips.act {s0 : State} (h : Flips s (fun p => s0.portPol p) (a :: rest) u) (fresh : a ∉ rest)
    (some : ∀ p, 1 ≤ (s.portPol p).dmax.toNat) : Flips s (fun p => s0.portPol p) rest (flipAct s0 rest a u) := by
  obtain ⟨known, offers⟩ := h
  refine ⟨known.act fresh some, fun p => ?_⟩
  cases a with
  | queue q c => exact (offers p).queue known fresh
  | head q c => exact (offers p).head known
  | cadence q => exact (offers p).unit known _
  | arbiter q =>
    by_cases own : p = q
    · subst own
      exact (offers p).arbiter known s0
    · exact (offers p).other_arbiter known own s0

/-- Every act of the flip acted, each once. -/
theorem Flips.acts {s0 : State} (some : ∀ p, 1 ≤ (s.portPol p).dmax.toNat) (as : List FlipAct) (once : as.Nodup) :
    ∀ u, Flips s (fun p => s0.portPol p) as u → Flips s (fun p => s0.portPol p) [] (flipActs s0 as u) := by
  induction as with
  | nil => exact fun _ h => h
  | cons a as ih =>
    obtain ⟨fresh, once⟩ := List.nodup_cons.1 once
    exact fun _ h => ih once _ (h.act fresh some)

theorem Flips.start (heads : ∀ p c, s.HeadStands p c) (all : ∀ a, a ∈ rest) : Flips s old rest s :=
  ⟨.start heads all, fun _ => .start (all _)⟩

end

end Sys2Proof.Machine
end

section
/-! SUPPORT. The flip as a whole (R39, R47, R48, R87, R105, R123), and COMMIT (R46). -/

namespace Sys2Proof.Machine

/-! ## What stands after the acts of a flip -/

section

variable {s u : State} {old : Line → PortPol} (h : Flipping s old [] u) (p : Line)

include h

namespace Flipping

/-- R123: the timer of an UP line. -/
theorem timer (up : u.isUp p = true) : (u.cadence.get p).timer =
    if (u.portPol p).tc = (old p).tc then (s.cadence.get p).timer
    else if (u.portPol p).tc = 0 then .stopped else .running (s.timebase + (u.portPol p).tc.setWidth 32) := by
  rw [(h.cadence p).timer (by simp), State.flipTimer, h.stands.portPol, ← h.stands.isUp, up]
  congr 1
  by_cases zero : (s.portPol p).tc = 0 <;> simp [zero]

/-- A launch in progress at the flip goes on. -/
theorem launch_kept {x : Launch} (busy : (s.tx.get p).launch = some x) : (u.tx.get p).launch = some x := by
  obtain same | ⟨idle, -⟩ := h.tx p
  · rw [same, busy]
  · exact absurd (busy.symm.trans idle) (by simp)

/-- R85, R87, R100, R101, R105: a class after the flip. -/
theorem class_flipped (c : TrafficClass) : let late := overdue s.timebase (u.classPol p c).residence
    u.queue p c <:+ s.queue p c ∧ (∀ d rest, u.queue p c = d :: rest → late d = false) ∧ u.Evaluated p c ∧
      (u.tx.get p = s.tx.get p →
        u.queue p c = (s.queue p c).dropWhile late ∧ (u.lane p c).history = (s.lane p c).history ∧
        u.counters.read (.egress p c .residence) =
          (s.counters.read (.egress p c .residence)).add ((s.queue p c).takeWhile late).length ∧
        (u.queue p c = s.queue p c → u.counters.read (.egress p c .windowHolds) =
          (s.counters.read (.egress p c .windowHolds)).add
            (if (u.lane p c).head = .held ∧ (s.lane p c).head ≠ .held then 1 else 0))) := by
  have known := h.classes p c
  dsimp only
  rw [h.stands.classPol]
  refine ⟨known.suffix, known.timely (by simp), known.evaluated (by simp), fun same => ?_⟩
  obtain ⟨history, -, taken, holds⟩ := known.kept same
  obtain ⟨left, counted⟩ := taken (by simp)
  exact ⟨left, history, counted, fun unmoved => (holds unmoved).2.2⟩

/-- R119: a cadence unit after the flip. -/
theorem unit_flipped : let due := (u.portPol p).dmax.toNat ≤ (s.cadence.get p).owed.length
    (1 ≤ (u.portPol p).dmax.toNat → (u.portPol p).dmax.toNat ≤ (u.cadence.get p).owed.length →
      (u.cadence.get p).forced = true) ∧
    (u.tx.get p = s.tx.get p →
      u.cadence.get p =
        { s.cadence.get p with
          timer := (u.cadence.get p).timer, forced := (s.cadence.get p).forced || decide due } ∧
      u.counters.read (.line p .forcedEntries) = (s.counters.read (.line p .forcedEntries)).add
        (if (s.cadence.get p).forced = false ∧ due then 1 else 0)) := by
  have known := h.cadence p
  obtain ⟨entries, found, -⟩ := h.notices
  dsimp only
  rw [h.stands.portPol]
  refine ⟨known.forced (by simp), fun same => ?_⟩
  have tested := known.tested same (by simp)
  exact ⟨tested, found.counted_idle same (congrArg Cadence.forced tested)⟩

/-- R79, R80: the pool after the flip. -/
theorem pool_flipped : let held := fun (x : State) p => x.queuedCells p + (x.tx.get p).cells
    u.pool.free = s.pool.free + (held s .n - held u .n) + (held s .s - held u .s) ∧
      (∀ p, u.pool.used.get p = s.pool.used.get p - (held s p - held u p)) ∧ s.pool.Rearms u.pool := by
  obtain ⟨back, left, free, used, rearms⟩ := h.cells
  have returned : ∀ p, s.sideCells p - u.sideCells p = back p := fun p => by
    rw [← left]
    exact Nat.add_sub_cancel_left ..
  refine ⟨?_, fun p => ?_, rearms⟩
  · rw [free, ← returned .n, ← returned .s]
    rfl
  · rw [used, ← returned]
    rfl

/-- R114, R119, R167, R168: the entries into FORCED and their notices after the flip. -/
theorem notices_flipped : ∃ entries : List (Line × Nat),
    (entries.map Prod.fst).Nodup ∧
    (∀ p debt, (p, debt) ∈ entries →
      (s.cadence.get p).forced = false ∧ (u.portPol p).dmax.toNat ≤ debt ∧
      (debt = (s.cadence.get p).owed.length ∨
        (u.tx.get p ≠ s.tx.get p ∧ debt + 1 = (s.cadence.get p).owed.length))) ∧
    (∀ p, u.tx.get p = s.tx.get p → (s.cadence.get p).forced = false → (u.cadence.get p).forced = true →
      (p, (s.cadence.get p).owed.length) ∈ entries) ∧
    (∀ p, u.counters.read (.line p .forcedEntries) =
      (s.counters.read (.line p .forcedEntries)).add ((entries.map Prod.fst).count p)) ∧
    u.noticeSeq = s.noticeSeq + BitVec.ofNat 16 entries.length ∧
    ∀ q, ServiceFlipped { s with store := u.store } entries q u := by
  obtain ⟨entries, known, lines⟩ := h.notices
  refine ⟨entries, known.once, fun p debt inside => ?_, known.entered, known.counted, known.seq, ?_⟩
  · rw [h.stands.portPol]
    exact (known.found p debt inside).2
  · rw [h.stands.store]
    exact lines

/-- R100, R109: the offers of a line after the flip. -/
theorem offers_flipped (offers : OfferFlipped s [] p u) :
    (s.isUp p = true → s.txFree p = true →
      ((u.tx.get p).launch ≠ none ∧ u.offers.get p = 0) ∨
        ((u.tx.get p).launch = none ∧
          (s.offers.get p < u.offers.get p ∨
            (u.offers.get p = s.offers.get p ∧ u.service.get p = [] ∧ (u.cadence.get p).owed = [] ∧
              ∀ c, u.queue p c = [] ∨ u.Allows p c = false)))) ∧
      (s.isUp p = false ∨ s.txFree p = false → u.offers.get p = s.offers.get p) := by
  refine ⟨fun up free => (offers.heard up free).imp_right fun ⟨idle, made⟩ =>
    ⟨idle, made.imp_right fun ⟨still, silent⟩ => ?_⟩, offers.deaf⟩
  obtain ⟨service, owed, classes⟩ := silent (by simp)
  refine ⟨still, service, owed, fun c => (classes c).imp_right fun shut => ?_⟩
  rw [(h.classes p c).allows h.stands (idle_of_free h (Option.isNone_iff_eq_none.2 idle))]
  exact shut.resolve_right (by simp)

end Flipping

end

/-- Every entry of the active bank of a flip passes its checks. -/
theorem flipStore_entriesOk {s : State} (entries : s.EntriesInv) : (flipStore s).active.EntriesOk := by
  obtain ⟨a, b⟩ := entries
  rw [flipStore_eq]
  show ({ s.store with active := s.store.active.other } : TableStore).activeBank.EntriesOk
  unfold TableStore.activeBank
  cases s.store.active
  · exact b
  · exact a

/-- R47, R49: the acts of a flip, in whichever order. -/
theorem flip_flips {s : State} (entries : s.EntriesInv) (heads : s.HeadsInv) :
    Flips (flipStore s) (fun p => s.portPol p) [] (flipActs s (flipOrder s.choices flipAll) (flipStore s)) := by
  have order := flipOrder_perm s.choices flipAll
  obtain ⟨-, -, -, ports, -⟩ := flipStore_entriesOk entries
  refine Flips.acts (fun p => ?_) _ (order.nodup_iff.2 flipAll_nodup) _
    (.start ?_ fun a => order.mem_iff.2 (mem_flipAll a))
  · have ok := ports p
    simp only [PortPol.ok, Bool.and_eq_true, decide_eq_true_eq] at ok
    exact ok.1.2
  · rw [flipStore_eq]
    exact heads

/-- R48, R51: the phase after the flip. -/
theorem flipPhase_eq (s : State) : s.flipPhase =
    if (s.cls.get .n).state = .judging ∨ (s.cls.get .s).state = .judging then
      .adopting { n := decide ((s.cls.get .n).state ≠ .judging), s := decide ((s.cls.get .s).state ≠ .judging) }
    else .refilling s.timebase := by
  unfold State.flipPhase State.flipMarks State.inClassification
  by_cases north : (s.cls.get .n).state = .judging <;> by_cases south : (s.cls.get .s).state = .judging <;>
    simp [north, south]

/-! ## COMMIT -/

theorem commitNow_clean {s : State} (h : InHand) (clean : s.store.dirty = false) :
    commitNow h s = finishCommand h .okUnchanged (bytes32 s.store.generation) s := by
  simp [commitNow, clean]

theorem commitNow_fails {s : State} (h : InHand) (dirty : s.store.dirty = true)
    (fails : s.store.stagingBank.commitOk = false) :
    commitNow h s = finishCommand h .badValue [0x07#8, 0x00#8, 0x00#8] s := by
  unfold commitNow
  rw [dirty, fails]
  rfl

/-- R47: admission by list with no manager listed fails the commit-time check. -/
theorem commitOk_unlisted {b : Bank} (listed : b.devpol.admission = .listed)
    (none : ∀ i : Fin 31, b.station[i.succ].valid = false ∨ b.station[i.succ].manager = false) :
    b.commitOk = false := by
  have unlisted : (b.listsManager fun _ => true) = false := by
    refine List.any_eq_false.2 fun i _ => ?_
    obtain invalid | plain := none i
    · rw [invalid]
      exact Bool.false_ne_true
    · rw [plain, Bool.and_false]
      exact Bool.false_ne_true
  unfold Bank.commitOk
  rw [listed, unlisted]
  rfl

/-- R47: a notice target that is the screen itself fails the commit-time check. -/
theorem commitOk_self {b : Bank} {g : NoticeTarget} (target : b.devpol.target = some g)
    (self : g.station = b.station[(0 : Fin 32)].id) : b.commitOk = false := by
  have own : (g.station != b.identity) = false := by
    rw [self]
    exact bne_self_eq_false _
  unfold Bank.commitOk
  rw [target]
  dsimp only
  rw [own, Bool.and_false]

/-- Settles O39. The acts of the flip are taken one after the other in the order they have, and after each one it is
known what stands for the acts still to come (`Flips`); with none to come that is the statement. -/
theorem commitFlipsOnlyCheckedDirtyStaging : Obligations.CommitFlipsOnlyCheckedDirtyStaging := by
  refine ⟨?_, fun h c length due s running held role dirty ok entries heads => ?_⟩
  · intro h s running editor b
    refine ⟨fun clean => ?_, fun dirty fails => ?_⟩
    · exact (exec_commit running editor).trans (congrArg _ (commitNow_clean h clean))
    · have bad : s.store.stagingBank.commitOk = false := by
        obtain ⟨listed, none⟩ | ⟨g, target, self⟩ := fails
        · exact commitOk_unlisted listed none
        · exact commitOk_self target self
      exact (exec_commit running editor).trans (congrArg _ (commitNow_fails h dirty bad))
  · have run := (exec_commit running (isEditor_of_role held role)).trans (congrArg _ (commitNow_flips h dirty ok))
    have flips := flip_flips entries heads
    have rest := flipActs_rest s (flipOrder s.choices flipAll) (flipStore s)
    rw [flip_eq] at run
    rw [flipStore_eq] at run flips rest
    generalize flipActs s (flipOrder s.choices flipAll) _ = u at run flips rest
    obtain ⟨known, offers⟩ := flips
    have contexts : u.contexts = s.contexts := by rw [rest]
    rw [waitForCopy_editor (s := { u with choices := u.choices + 1 }) (by rw [← held, ← contexts]) role] at run
    refine ⟨_, run, ?_, ?_, ?_, known.timer, fun p x => known.launch_kept p, known.class_flipped,
      known.unit_flipped, fun p => known.offers_flipped p (offers p), known.pool_flipped,
      known.notices_flipped, known.counts, ?_⟩
    · dsimp only
      rw [rest]
      dsimp only
      rw [flipPhase_eq]
      rfl
    · dsimp only
      rw [rest]
    · dsimp only
      rw [rest]
    · rw [rest]

end Sys2Proof.Machine
end

section
/-! SUPPORT. Steps 6 to 9 on a PENDING frame, rule by rule and entry by entry (R64 to R69), and the two probes. -/

namespace Sys2Proof.Machine

/-! ## A rule is tried, and matches (R64) -/

theorem triedOn_iff (r : RuleEntry) (arrival : Line) : r.triedOn arrival = true ↔
    r.enabled = true ∧
      (r.arrival = .both ∨ (r.arrival = .n ∧ arrival = .n) ∨ (r.arrival = .s ∧ arrival = .s)) := by
  unfold RuleEntry.triedOn
  rw [Bool.and_eq_true_iff]
  refine and_congr_right fun _ => ?_
  cases r.arrival <;> cases arrival <;> simp

theorem matchesFrame_iff (r : RuleEntry) (total : Nat) (window : List Byte) : r.matchesFrame total window = true ↔
    r.minLength.toNat ≤ total ∧ r.anchor.toNat + r.width.toNat ≤ window.length ∧
      ∀ i < r.width.toNat, window.getD (r.anchor.toNat + i) 0 &&& r.mask.getD i 0 = r.value.getD i 0 := by
  simp only [RuleEntry.matchesFrame, byteAt, Bool.and_eq_true, decide_eq_true_eq, List.all_eq_true, List.mem_range,
    beq_iff_eq, and_assoc]

/-- R64: rule `j` of the bank is tried on the frame and matches it. -/
def Bank.ruleHits (b : Bank) (arrival : Line) (f : HeaderFacts) (window : List Byte) (j : Fin 8) : Bool :=
  b.rules[j].triedOn arrival && b.rules[j].matchesFrame (20 + f.payload) window

/-! ## The scan of the rules (R65, R69) -/

section

variable {arrival : Line} {total : Nat} {window : List Byte} {i : Fin 8} {r : RuleEntry}

theorem scanRules_cons_miss (miss : ¬ (r.triedOn arrival && r.matchesFrame total window) = true)
    (rest : List (Fin 8 × RuleEntry)) (t : Option Trigger) (hits : List HitCounter) :
    scanRules arrival total window ((i, r) :: rest) t hits = scanRules arrival total window rest t hits := by
  rw [scanRules, if_neg miss]

theorem scanRules_cons_mark (hit : (r.triedOn arrival && r.matchesFrame total window) = true)
    (mark : r.action = .captureContinue) (rest : List (Fin 8 × RuleEntry)) (t : Option Trigger)
    (hits : List HitCounter) :
    scanRules arrival total window ((i, r) :: rest) t hits =
      scanRules arrival total window rest (t.or (some (.rule i))) (hits ++ [.rule i]) := by
  rw [scanRules, if_pos hit, mark]

theorem scanRules_cons_decides (hit : (r.triedOn arrival && r.matchesFrame total window) = true)
    (decides : r.action ≠ .captureContinue) (rest : List (Fin 8 × RuleEntry)) (t : Option Trigger)
    (hits : List HitCounter) :
    scanRules arrival total window ((i, r) :: rest) t hits =
      { outcome := if r.action = .drop then .drop .ruleDrop else .pass r.cls
        trigger := t
        hits := hits ++ [.rule i] } := by
  rw [scanRules, if_pos hit]
  cases action : r.action with
  | drop => rfl
  | passAs => rfl
  | captureContinue => exact absurd action decides

end

section

variable {b : Bank} {arrival : Line} {f : HeaderFacts} {window : List Byte}

/-- R65, R69: rules that at most mark the frame leave their marks and the first trigger, and the scan goes on. -/
theorem scanRules_marks {marking : List (Fin 8)}
    (marks : ∀ j ∈ marking, b.ruleHits arrival f window j = true → b.rules[j].action = .captureContinue)
    (rest : List (Fin 8 × RuleEntry)) (t : Option Trigger) (hits : List HitCounter) :
    scanRules arrival (20 + f.payload) window (marking.map (fun j => (j, b.rules[j])) ++ rest) t hits =
      scanRules arrival (20 + f.payload) window rest
        (t.or ((marking.find? (b.ruleHits arrival f window)).map .rule))
        (hits ++ (marking.filter (b.ruleHits arrival f window)).map .rule) := by
  induction marking generalizing t hits with
  | nil => simp only [List.map_nil, List.nil_append, List.find?_nil, Option.map_none, Option.or_none,
      List.filter_nil, List.append_nil]
  | cons j marking ih =>
    have later := ih fun k mem => marks k (List.mem_cons_of_mem _ mem)
    rw [List.map_cons, List.cons_append]
    by_cases hit : b.ruleHits arrival f window j = true
    · rw [scanRules_cons_mark hit (marks j List.mem_cons_self hit), later, List.find?_cons_of_pos hit,
        List.filter_cons_of_pos hit, Option.or_assoc, List.append_assoc]
      rfl
    · rw [scanRules_cons_miss hit, later, List.find?_cons_of_neg hit, List.filter_cons_of_neg hit]

theorem finRange8_split (i : Fin 8) : List.finRange 8 =
    (List.finRange 8).filter (· < i) ++ i :: (List.finRange 8).filter (i < ·) := by
  decide +revert

theorem numberedRules_split (b : Bank) (i : Fin 8) : b.numberedRules =
    ((List.finRange 8).filter (· < i)).map (fun j => (j, b.rules[j])) ++
      (i, b.rules[i]) :: ((List.finRange 8).filter (i < ·)).map fun j => (j, b.rules[j]) :=
  (congrArg (List.map fun j => (j, b.rules[j])) (finRange8_split i)).trans List.map_append

theorem finRange8_filter_le (i : Fin 8) :
    (List.finRange 8).filter (· ≤ i) = (List.finRange 8).filter (· < i) ++ [i] := by
  decide +revert

/-- R65, R69: the scan ends at the lowest rule that matches and does not mark. -/
theorem scanRules_first_decides {i : Fin 8} (hit : b.ruleHits arrival f window i = true)
    (decides : b.rules[i].action ≠ .captureContinue)
    (marks : ∀ j < i, b.ruleHits arrival f window j = true → b.rules[j].action = .captureContinue) :
    scanRules arrival (20 + f.payload) window b.numberedRules none [] =
      { outcome := if b.rules[i].action = .drop then .drop .ruleDrop else .pass b.rules[i].cls
        trigger := ((List.finRange 8).find? fun j => j < i && b.ruleHits arrival f window j).map .rule
        hits := ((List.finRange 8).filter fun j => j ≤ i && b.ruleHits arrival f window j).map .rule } := by
  have below : ∀ j ∈ (List.finRange 8).filter (· < i), b.ruleHits arrival f window j = true →
      b.rules[j].action = .captureContinue :=
    fun j mem => marks j (of_decide_eq_true (List.mem_filter.1 mem).2)
  have trigger : ((List.finRange 8).filter (· < i)).find? (b.ruleHits arrival f window) =
      (List.finRange 8).find? fun j => j < i && b.ruleHits arrival f window j := by
    simp only [List.find?_filter, Bool.decide_and, decide_eq_true_eq, Bool.decide_eq_true]
  have hits : ((List.finRange 8).filter (· < i)).filter (b.ruleHits arrival f window) ++ [i] =
      (List.finRange 8).filter fun j => j ≤ i && b.ruleHits arrival f window j := by
    have order : (fun j : Fin 8 => decide (j ≤ i) && b.ruleHits arrival f window j) =
        fun j => b.ruleHits arrival f window j && decide (j ≤ i) := funext fun _ => Bool.and_comm _ _
    rw [order, ← List.filter_filter, finRange8_filter_le, List.filter_append, List.filter_cons_of_pos hit,
      List.filter_nil]
  rw [numberedRules_split b i, scanRules_marks below, scanRules_cons_decides hit decides, trigger, ← hits,
    List.map_append]
  rfl

/-- R65, R69: when every matching rule marks, the frame leaves step 6 PENDING. -/
theorem scanRules_all_mark
    (marks : ∀ j, b.ruleHits arrival f window j = true → b.rules[j].action = .captureContinue) :
    scanRules arrival (20 + f.payload) window b.numberedRules none [] =
      { outcome := .pending
        trigger := ((List.finRange 8).find? (b.ruleHits arrival f window)).map .rule
        hits := ((List.finRange 8).filter (b.ruleHits arrival f window)).map .rule } := by
  have scan := scanRules_marks (marking := List.finRange 8) (fun j _ => marks j) [] none []
  rwa [List.append_nil] at scan

/-! ## The judgement by the step that decides -/

theorem judge_of_rules {j : Judgement}
    (scan : scanRules arrival (20 + f.payload) window b.numberedRules none [] = j) (decided : j.outcome ≠ .pending) :
    b.judge arrival f window = j := by
  subst scan
  exact if_pos decided

theorem judge_of_station {t : Option Trigger} {hits : List HitCounter} {i : Fin 31}
    (scan : scanRules arrival (20 + f.payload) window b.numberedRules none [] =
      { outcome := .pending, trigger := t, hits := hits }) (found : b.findStation f = some i) :
    b.judge arrival f window =
      { outcome := b.stationOutcome b.station[i.succ] f
        trigger := t.or (if b.station[i.succ].capture then some (.station i.succ) else none)
        hits := hits ++ [.station i] } := by
  have trigger : (if b.station[i.succ].capture then t.or (some (.station i.succ)) else t) =
      t.or (if b.station[i.succ].capture then some (.station i.succ) else none) := by
    split
    · rfl
    · exact Option.or_none.symm
  unfold Bank.judge
  rw [scan, found, ← trigger]
  rfl

theorem judge_of_lastSteps {t : Option Trigger} {hits : List HitCounter}
    (scan : scanRules arrival (20 + f.payload) window b.numberedRules none [] =
      { outcome := .pending, trigger := t, hits := hits }) (unlisted : b.findStation f = none) :
    b.judge arrival f window =
      { outcome := (b.lastSteps arrival f).1, trigger := t, hits := hits ++ (b.lastSteps arrival f).2 } := by
  unfold Bank.judge
  rw [scan, unlisted]
  rfl

/-! ## The station list (R66) -/

theorem agrees_iff (e : StationEntry) (f : HeaderFacts) : e.agrees f = true ↔ e.valid = true ∧
    ((e.matchField ≠ .src ∧ f.dest = e.id) ∨ (e.matchField ≠ .dest ∧ f.src = e.id)) := by
  unfold StationEntry.agrees
  rw [Bool.and_eq_true_iff]
  refine and_congr_right fun _ => ?_
  cases e.matchField <;>
    simp only [ne_eq, reduceCtorEq, not_true_eq_false, not_false_eq_true, true_and, false_and, or_false, false_or,
      Bool.or_eq_true, beq_iff_eq]

theorem findStation_eq_some_iff {i : Fin 31} : b.findStation f = some i ↔
    b.station[i.succ].agrees f = true ∧ ∀ j < i, ¬ b.station[j.succ].agrees f = true := by
  unfold Bank.findStation
  simp only [← Fin.find?_eq_find?_finRange, Fin.find?_eq_some_iff, Bool.not_eq_true]

theorem findStation_eq_none_iff : b.findStation f = none ↔ ∀ i : Fin 31, ¬ b.station[i.succ].agrees f = true := by
  unfold Bank.findStation
  simp only [← Fin.find?_eq_find?_finRange, Fin.find?_eq_none_iff, Bool.not_eq_true]

theorem stationOutcome_eq (b : Bank) (e : StationEntry) (f : HeaderFacts) : b.stationOutcome e f =
    if e.verdict = .drop then .drop .stationDrop
    else .pass (match e.cls with
      | .cls c => c
      | .flow => b.flowmap[f.label]) := by
  unfold Bank.stationOutcome
  cases e.verdict <;> cases e.cls <;> rfl

/-! ## The group map and the unmatched verdict (R67, R68) -/

theorem lastSteps_group (group : f.dest.msb = true) : b.lastSteps arrival f =
    if b.groupPosition (probeA f.dest b.devpol.rA) ∧ b.groupPosition (probeB f.dest b.devpol.rB)
    then (.pass b.flowmap[f.label], [.groupPass]) else (.drop .groupMiss, [.groupMiss]) := by
  simp only [Bank.lastSteps, Bank.groupPasses, Bank.flowClass, if_pos group, Bool.and_eq_true]

theorem lastSteps_individual (individual : f.dest.msb = false) : b.lastSteps arrival f =
    if (b.portpol.get arrival.opposite).unmatched = .pass
    then (.pass b.flowmap[f.label], [.unmatchedPass]) else (.drop .unmatchedDrop, []) := by
  unfold Bank.lastSteps
  rw [individual, if_neg Bool.false_ne_true]
  cases (b.portpol.get arrival.opposite).unmatched <;> rfl

/-- A bit of a right rotation is the bit that many places above it, cyclically. -/
theorem getLsbD_rotateRight_mod {w : Nat} (x : BitVec w) (r : Nat) {j : Nat} (inside : j < w) :
    (x.rotateRight r).getLsbD j = x.getLsbD ((j + r) % w) := by
  have place : (j + r) % w = (j + r % w) % w := (Nat.add_mod_mod j r w).symm
  have shift : r % w < w := Nat.mod_lt _ (by omega)
  rw [BitVec.getLsbD_rotateRight, place]
  generalize r % w = k at shift
  by_cases low : j < w - k
  · rw [decide_eq_true low, cond_true, Nat.add_comm, Nat.mod_eq_of_lt (by omega)]
  · have wraps : (j + k) % w = j - (w - k) := by
      rw [Nat.mod_eq_sub_mod (by omega), Nat.mod_eq_of_lt (by omega)]
      omega
    rw [decide_eq_false low, cond_false, decide_eq_true inside, Bool.true_and, wraps]

theorem probeA_bit (d : StationId) (r : Byte) {j : Nat} (inside : j < 11) :
    (probeA d r).getLsbD j = d.getLsbD ((j + r.toNat) % 11) := by
  have low : (j + r.toNat) % 11 < 11 := Nat.mod_lt _ (by omega)
  rw [probeA, getLsbD_rotateRight_mod _ _ inside, BitVec.getLsbD_setWidth, decide_eq_true low, Bool.true_and]

theorem probeB_bit (d : StationId) (r : Byte) {j : Nat} (inside : j < 11) :
    (probeB d r).getLsbD j = (d.getLsbD ((j + r.toNat) % 11) ^^ d.getLsbD ((j + r.toNat) % 11 + 16)) := by
  have low : (j + r.toNat) % 11 < 11 := Nat.mod_lt _ (by omega)
  rw [probeB, getLsbD_rotateRight_mod _ _ inside, BitVec.getLsbD_setWidth, decide_eq_true low, Bool.true_and,
    BitVec.getLsbD_xor, getLsbD_rotateRight_mod _ _ (by omega), Bool.xor_comm,
    Nat.mod_eq_of_lt (a := (j + r.toNat) % 11 + 16) (by omega)]

end

/-! ## What steps 6 to 9 decide -/

/-- Settles O12: a tried rule, a matching rule, and the first match that drops or passes. -/
theorem firstDecisiveRuleDecides : Obligations.FirstDecisiveRuleDecides := by
  refine ⟨triedOn_iff, matchesFrame_iff, ?_⟩
  intro b arrival f window i hit matched decides marks
  refine judge_of_rules (scanRules_first_decides matched decides marks) ?_
  dsimp only
  split <;> exact nofun

/-- Settles O13: the station entry that decides, the group map or the unmatched verdict, and the bits of the probes. -/
theorem stationThenGroupOrUnmatchedDecides : Obligations.StationThenGroupOrUnmatchedDecides := by
  refine ⟨?_, fun d r j inside => ⟨probeA_bit d r inside, probeB_bit d r inside⟩⟩
  intro b arrival f window hit mark marks trigger agrees flow
  have scan := scanRules_all_mark mark
  refine ⟨fun i entry first => ?_, fun others => ?_⟩
  · have found : b.findStation f = some i :=
      findStation_eq_some_iff.2 ⟨(agrees_iff _ f).2 entry, fun j below => mt (agrees_iff _ f).1 (first j below)⟩
    have judged := judge_of_station scan found
    rw [stationOutcome_eq] at judged
    exact judged
  · have unlisted : b.findStation f = none := findStation_eq_none_iff.2 fun i => mt (agrees_iff _ f).1 (others i)
    rw [judge_of_lastSteps scan unlisted]
    refine ⟨fun group => ?_, fun individual => ?_⟩
    · rw [lastSteps_group group]
      split <;> rfl
    · rw [lastSteps_individual individual]
      split
      · rfl
      · rw [List.append_nil]
        rfl

end Sys2Proof.Machine
end

section
/-! SUPPORT. The residence expiry of a class queue (R79, R80, R85, R98 to R102). -/

namespace Sys2Proof.Machine

/-- R80: frames that leave one after the other arm the notice flag when more than 64 cells are free in the end: the
free count rises from frame to frame. -/
theorem give_all_armed (e : Line) (ds : List Descriptor) (some : ds ≠ []) (p : Pool) :
    (ds.foldl (fun p d => p.give e d.cells) p).armed =
      (p.armed || decide (64 < (ds.foldl (fun p d => p.give e d.cells) p).free)) := by
  induction ds generalizing p with
  | nil => exact absurd rfl some
  | cons d ds ih =>
    rw [List.foldl_cons]
    cases ds with
    | nil => rfl
    | cons d' ds =>
      have rises : (p.give e d.cells).free ≤
          ((d' :: ds).foldl (fun p d => p.give e d.cells) (p.give e d.cells)).free := by
        rw [give_all_free]
        exact Nat.le_add_right _ _
      rw [ih (by simp)]
      generalize ((d' :: ds).foldl (fun p d => p.give e d.cells) (p.give e d.cells)).free = free at rises ⊢
      simp only [Pool.give, Bool.or_assoc, ← Bool.decide_or] at rises ⊢
      congr 2
      exact propext (or_iff_right_of_imp fun armed => by omega)

theorem exec_residenceExpiry {s : State} (p : Line) (c : TrafficClass) (awake : s.resetLow = false) :
    exec (.residenceExpiry p c) s = .next (checkHead p c s) :=
  congrArg _ (awake_eq s _ awake)

/-- Settles O24: a late head is removed with the late ones behind it, as a new head is; one that is not late stays. -/
theorem residenceExpiryRemovesLateHeads : Obligations.ResidenceExpiryRemovesLateHeads := by
  intro p c d rest s awake queue late
  rw [exec_residenceExpiry p c awake]
  obtain ⟨expires, d', rest', queue', due⟩ | ⟨stays, timely⟩ := checkHead_cases s p c
  · obtain ⟨rfl, rfl⟩ := List.cons.inj (queue.symm.trans queue')
    refine ⟨fun _ => ⟨newHead p c s, congrArg _ expires, ?_⟩, fun early => absurd (due.symm.trans early) (by simp)⟩
    have gone : (d :: rest).takeWhile late ≠ [] := by
      rw [List.takeWhile_cons_of_pos due]
      simp
    have pool := newHead_pool s p c
    have read := newHead_read s p c
    obtain ⟨_, _, _, _, _, shape⟩ := newHead_shape s p c
    rw [queue] at pool read
    refine ⟨?_, ⟨?_, ?_⟩, ?_, ?_, newHead_counts s p c, newHead_history s p c, newHead_evaluated s p c, ?_,
      newHead_offers s p c, fun q k other => ⟨newHead_queue_ne s p c q k other, newHead_lane_ne s p c q k other⟩, ?_⟩
    · rw [newHead_queue, queue]
    · rw [pool, give_all_free]
    · rw [pool, give_all_used]
    · rw [pool]
      exact give_all_armed p _ gone s.pool
    · simp [read, Counter.add_zero, late]
    · simp [read, Counter.add_zero]
    · rw [shape]
  · have early := timely d rest queue
    exact ⟨fun due => absurd (due.symm.trans early) (by simp), fun _ => congrArg _ stays⟩

end Sys2Proof.Machine
end

section
/-! SUPPORT. The nine sections of QUERY (Table 11-8), and its acts (R153). -/

namespace Sys2Proof.Machine

/-- The items of a vector, one for each of its places. -/
theorem toList_map_finRange {α β : Type} {n : Nat} (v : Vector α n) (f : α → β) :
    v.toList.map f = (List.finRange n).map fun i => f v[i] := by
  refine List.ext_getElem (by simp) fun i _ _ => ?_
  simp

variable (s : State)

/-- Section 2 of Table 11-8 spells both lines alike. -/
theorem querySection_lines : s.querySection 1 = [Line.n, Line.s].map fun l => (s.port.get l).line.code := rfl

/-- Section 3: the depth and the occupancy of each class, the classes of line N first. -/
theorem querySection_queues :
    s.querySection 2 = [Line.n, Line.s].flatMap fun p => (List.finRange 8).flatMap fun c => s.queueStatus p c := by
  have classes : (List.finRange 8 : List TrafficClass) = classesUp := by decide
  rw [classes]
  simp only [State.querySection, List.flatMap_cons, List.flatMap_nil, List.append_nil]
  rfl

/-- A context in use that is no READER is the EDITOR. -/
theorem isEditor_eq_false_iff (c : Context) : c.isEditor = false ↔ c.role = .reader := by
  unfold Context.isEditor
  cases c.role <;> simp

/-- Section 6, one context in use. -/
theorem contextStatus_some (c : Context) :
    contextStatus (some c) =
      [if c.role = .reader then 0x01#8 else 0x02#8] ++ bytes32 c.src ++ [lineCode c.line] := by
  show [if c.isEditor then 0x02#8 else 0x01#8] ++ bytes32 c.src ++ [lineCode c.line] = _
  by_cases reader : c.role = .reader
  · rw [(isEditor_eq_false_iff c).2 reader]
    simp [reader]
  · have editor : c.isEditor = true := by simpa [reader] using mt (isEditor_eq_false_iff c).1 reader
    simp [reader, editor]

theorem querySection_contexts :
    s.querySection 5 = (List.finRange 4).flatMap fun i => contextStatus s.contexts[i] := by
  show (s.contexts.toList.map contextStatus).flatten = _
  rw [toList_map_finRange, List.flatMap_def]

theorem querySection_slots : s.querySection 6 = (List.finRange 4).map fun k => (s.capture.slot k).code :=
  toList_map_finRange s.capture.slots Slot.code

/-- R152, R153: a QUERY that runs reads one section. -/
theorem exec_query {h : InHand} {s : State} (running : s.Running h codeQuery []) :
    exec (.query []) s = .next (queryNow h s) :=
  congrArg _ (awake_runCommand s _ running)

/-- The section that does not end a QUERY is kept. -/
theorem queryNow_keeps (h : InHand)
    (fits : h.sections.flatten.length + (s.querySection h.sections.length).length ≤ resultRoom h)
    (more : h.sections.length < 8) :
    queryNow h s = s.setAgent
      { s.agent with hand := .request { h with sections := h.sections ++ [s.querySection h.sections.length] } } := by
  unfold queryNow
  dsimp only
  rw [if_pos fits, if_pos more]

/-- The ninth section ends it with OK. -/
theorem queryNow_ends (h : InHand)
    (fits : h.sections.flatten.length + (s.querySection h.sections.length).length ≤ resultRoom h)
    (last : h.sections.length = 8) :
    queryNow h s = finishCommand h .ok (h.sections ++ [s.querySection h.sections.length]).flatten s := by
  unfold queryNow
  dsimp only
  rw [if_pos fits, if_neg (by omega)]

/-- A section that does not fit ends it with those read before. -/
theorem queryNow_truncates (h : InHand)
    (above : resultRoom h < h.sections.flatten.length + (s.querySection h.sections.length).length) :
    queryNow h s = finishCommand h .truncated h.sections.flatten s := by
  unfold queryNow
  dsimp only
  rw [if_neg (by omega)]

/-- Settles O43: the sections of Table 11-8 one by one, and the three ways in which an act of QUERY goes on. -/
theorem queryReadsNextSection : Obligations.QueryReadsNextSection := by
  refine ⟨fun s => ⟨rfl, rfl, ?_, ?_, querySection_queues s, fun p c => rfl, rfl, rfl, ?_, ?_, rfl, rfl⟩,
    fun h s running => ?_⟩
  · show bytes32 s.store.generation ++ [s.store.phase.code, flagBit s.store.dirty 1#8] = _
    cases s.store.phase <;> rfl
  · refine (querySection_lines s).trans (List.map_congr_left fun l _ => ?_)
    cases (s.port.get l).line <;> rfl
  · refine (querySection_contexts s).trans (List.flatMap_congr fun i _ => ?_)
    cases s.contexts[i] with
    | none => rfl
    | some c => exact contextStatus_some c
  · refine (querySection_slots s).trans (List.map_congr_left fun k _ => ?_)
    cases s.capture.slot k <;> rfl
  · rw [exec_query running]
    exact ⟨fun fits more => congrArg _ (queryNow_keeps s h fits more),
      fun fits last => congrArg _ (queryNow_ends s h fits last), fun above => congrArg _ (queryNow_truncates s h above)⟩

end Sys2Proof.Machine
end

section
/-! SUPPORT. The frames that the egress side holds: which operations leave every one of them where it is, and how many
cells the others give back (R77, R79, R81, R84). -/

namespace Sys2Proof.Machine

/-! ## Operations that leave the frames of the egress side -/

/-- From `s` to `t` no frame has left the egress side or joined it: the pool, the queues with their pacers, and the
transmitters are as they were. -/
structure TrafficRests (s t : State) : Prop where
  pool : t.pool = s.pool
  queues : t.queues = s.queues
  pacer : t.pacer = s.pacer
  tx : t.tx = s.tx

namespace TrafficRests

variable {s t u : State}

theorem refl (s : State) : TrafficRests s s := ⟨rfl, rfl, rfl, rfl⟩

theorem trans (h : TrafficRests s t) (k : TrafficRests t u) : TrafficRests s u :=
  ⟨k.pool.trans h.pool, k.queues.trans h.queues, k.pacer.trans h.pacer, k.tx.trans h.tx⟩

end TrafficRests

section

variable (s : State) (p : Line)

theorem offer_traffic : TrafficRests s (offer p s) := by
  rw [offer_eq]
  exact ⟨rfl, rfl, rfl, rfl⟩

theorem enqueue_traffic (e : ServiceEntry) : TrafficRests s (enqueue p e s) := by
  obtain ⟨_, _, _, shape⟩ := enqueue_shape s p e
  rw [shape]
  exact ⟨rfl, rfl, rfl, rfl⟩

theorem notify_traffic (e : NoticeEvent) (t : Time) : TrafficRests s (notify e t s) := by
  obtain ⟨_, _, _, shape⟩ := notify_shape s e t
  rw [shape]
  exact ⟨rfl, rfl, rfl, rfl⟩

theorem forcedTest_traffic : TrafficRests s (forcedTest p s) := by
  obtain ⟨_, _, _, _, _, shape⟩ := forcedTest_shape s p
  rw [shape]
  exact ⟨rfl, rfl, rfl, rfl⟩

theorem setCadence_traffic (u : Cadence) : TrafficRests s (s.setCadence p u) := ⟨rfl, rfl, rfl, rfl⟩

theorem cadenceExpire_traffic (due : Time) : TrafficRests s (cadenceExpire p due s) := by
  unfold cadenceExpire
  dsimp only
  refine .trans ?_ (offer_traffic _ p)
  split
  · exact (setCadence_traffic s p _).trans (forcedTest_traffic _ p)
  · exact .trans (t := count _ _ (s.setCadence p _)) ⟨rfl, rfl, rfl, rfl⟩ (notify_traffic _ _ _)

theorem cadenceFlip_traffic (old : PortPol) : TrafficRests s (cadenceFlip p old s) := by
  rw [cadenceFlip_started]
  exact (setCadence_traffic s p _).trans (forcedTest_traffic _ p)

theorem cadenceTraffic_traffic : TrafficRests s (cadenceTraffic p s) := ⟨rfl, rfl, rfl, rfl⟩

end

/-! ## Cells given back by the egress side of a line -/

/-- The cells that an egress side holds are those of its queues and of its launch. -/
theorem sideCells_congr {s t : State} (queues : t.queues = s.queues) (tx : t.tx = s.tx) (e : Line) :
    t.sideCells e = s.sideCells e := by
  unfold State.sideCells
  rw [queuedCells_congr s e (by rw [queues]), tx]

/-- From `s` to `t` the egress side of line `p` has given back the cells of frames that it no longer holds. -/
def SideReturns (p : Line) (s t : State) : Prop :=
  ∃ k, s.pool.Returned p k t.pool ∧ t.sideCells p + k = s.sideCells p

namespace SideReturns

variable {p : Line} {s t u : State}

/-- Nothing has left: the pool and the cells held are the same. -/
theorem none (pool : t.pool = s.pool) (cells : t.sideCells p = s.sideCells p) : SideReturns p s t :=
  ⟨0, pool ▸ .none p _, cells⟩

theorem of_eq (pool : t.pool = s.pool) (queues : t.queues = s.queues) (tx : t.tx = s.tx) : SideReturns p s t :=
  .none pool (sideCells_congr queues tx p)

theorem refl (p : Line) (s : State) : SideReturns p s s := .of_eq rfl rfl rfl

theorem of_rests (h : TrafficRests s t) : SideReturns p s t := .of_eq h.pool h.queues h.tx

theorem trans (h : SideReturns p s t) (k : SideReturns p t u) : SideReturns p s u := by
  obtain ⟨i, pool, cells⟩ := h
  obtain ⟨j, pool', cells'⟩ := k
  exact ⟨i + j, pool.trans pool', by omega⟩

end SideReturns

section

variable {s : State} {p : Line}

theorem evaluateOffer_side (c : TrafficClass) : SideReturns p s (evaluateOffer p c s) := by
  obtain ⟨_, _, _, shape⟩ := evaluateOffer_shape s p c
  rw [shape]
  exact .of_eq rfl rfl rfl

theorem newHead_side (c : TrafficClass) : SideReturns p s (newHead p c s) := by
  obtain ⟨k, pool, cells⟩ := newHead_returned s p c
  refine ⟨k, pool, ?_⟩
  unfold State.sideCells
  rw [newHead_tx]
  omega

theorem checkHead_side (c : TrafficClass) : SideReturns p s (checkHead p c s) := by
  obtain ⟨e, -⟩ | ⟨e, -⟩ := checkHead_cases s p c <;> rw [e]
  · exact newHead_side c
  · exact .refl p s

/-- A frame that the part builds itself holds no cells when it is launched (R114, R120). -/
theorem startLaunch_side (idle : (s.tx.get p).launch = none) (bytes : List Byte) {x : LaunchSource}
    (built : ∀ d, x ≠ .passed d) : SideReturns p s (startLaunch p bytes x s) := by
  have cells : ((startLaunch p bytes x s).tx.get p).cells = 0 := by
    rw [startLaunch, setTx_tx, PerLine.get_set_same]
    cases x with
    | passed d => exact absurd rfl (built d)
    | service e => rfl
    | cadence => rfl
  refine .none rfl ?_
  unfold State.sideCells
  rw [cells, idle_cells idle]
  rfl

theorem launchCadence_side (idle : (s.tx.get p).launch = none) (t : Time) (rest : List Time) :
    SideReturns p s (launchCadence p t rest s) :=
  startLaunch_side (s := s.setCadence p _) idle _ nofun

theorem launchService_side (idle : (s.tx.get p).launch = none) (e : ServiceEntry) (rest : List ServiceEntry) :
    SideReturns p s (launchService p e rest s) :=
  startLaunch_side (s := s.setService p _) idle _ nofun

/-- R110, R112: what a decision launches on a free transmitter. -/
theorem Decision.side {t : State} (idle : (s.tx.get p).launch = none) (d : Decision p s t) : SideReturns p s t := by
  have passed : ∀ cs : List TrafficClass, SideReturns p s (cs.foldl (State.passedOver p) s) ∧
      ((cs.foldl (State.passedOver p) s).tx.get p).launch = none ∧
      (cs.foldl (State.passedOver p) s).queues = s.queues := fun cs => by
    obtain ⟨_, _, shape⟩ := passedOver_fold_shape p cs s
    rw [shape]
    exact ⟨.of_eq rfl rfl rfl, idle, rfl⟩
  cases d with
  | quiet owed service closed => exact (passed classesDown).1
  | cadence front t rest owed =>
    obtain ⟨side, free, -⟩ := passed front
    exact side.trans (launchCadence_side free t rest)
  | service e rest queue => exact launchService_side idle e rest
  | head front c d rest queue =>
    obtain ⟨side, free, queues⟩ := passed (front ++ [c])
    refine side.trans (launchHead_returned free ?_)
    rw [State.queue, queues]
    exact queue

theorem arbitrate_side (free : s.txFree p = true) : SideReturns p s (arbitrate p s) :=
  (arbitrate_decision s p).side (Option.isNone_iff_eq_none.1 free)

theorem decideOffer_side (free : s.txFree p = true) : SideReturns p s (decideOffer p s) :=
  (arbitrate_side free).trans (.of_eq rfl rfl rfl)

theorem decideNow_side : SideReturns p s (decideNow p s) := by
  unfold decideNow
  dsimp only
  split
  · rename_i may
    have decided := arbitrate_side (Bool.and_eq_true_iff.1 may).2
    split
    · exact decided
    · exact decided.trans (.of_eq rfl rfl rfl)
  · exact .refl p s

theorem flipAct_side (s0 : State) (rest : List FlipAct) (a : FlipAct) :
    SideReturns a.line s (flipAct s0 rest a s) := by
  cases a with
  | queue p c => exact checkHead_side c
  | head p c => exact evaluateOffer_side c
  | cadence p => exact .of_rests (cadenceFlip_traffic s p _)
  | arbiter p =>
    simp only [flipAct, FlipAct.line]
    split
    · exact .of_rests (offer_traffic s p)
    · exact decideNow_side

/-- R113: a completed launch returns the cells of its frame. -/
theorem account_side {x : Launch} (busy : (s.tx.get p).launch = some x) (close : TxClose) :
    SideReturns p s (account p x.source (s.setTx p { launch := none, close := close })) := by
  have freed : ((s.setTx p { launch := none, close := close }).tx.get p).cells = 0 := by
    rw [setTx_tx, PerLine.get_set_same]
    rfl
  have left : (s.setTx p { launch := none, close := close }).sideCells p + (s.tx.get p).cells = s.sideCells p := by
    unfold State.sideCells
    rw [freed]
    rfl
  unfold Transmitter.cells at left
  rw [busy] at left
  obtain ⟨start, bytes, d | e | _⟩ := x
  · exact ⟨d.cells, .give p d.cells _, left⟩
  · exact ⟨0, .none p _, left⟩
  · exact ⟨0, .none p _, left⟩

theorem queuedCells_eq_zero (empty : ∀ c, s.queue p c = []) : s.queuedCells p = 0 := by
  unfold State.queuedCells
  simp only [empty]
  rfl

theorem flushLine_side : SideReturns p s (flushLine p s) := by
  refine ⟨s.queuedCells p, flushLine_pool s p, ?_⟩
  obtain ⟨_, _, _, _, shape⟩ := flushLine_shape s p
  have tx : (flushLine p s).tx = s.tx := by rw [shape]
  unfold State.sideCells
  rw [queuedCells_eq_zero (flushLine_queue s p), tx]
  omega

theorem clearEgress_side : SideReturns p s (clearEgress p s) :=
  flushLine_side.trans (.of_rests (cadenceTraffic_traffic _ p))

theorem egressDown_side : SideReturns p s (egressDown p s) := by
  refine ⟨s.sideCells p, egressDown_pool s p, ?_⟩
  obtain ⟨_, _, _, _, shape⟩ := egressDown_shape s p
  have tx : (egressDown p s).tx = s.tx.set p (s.tx.get p).cut := by rw [shape]
  unfold State.sideCells
  rw [queuedCells_eq_zero (egressDown_queue s p), tx, PerLine.get_set_same, idle_cells (cut_launch _)]
  omega

theorem egressUp_side : SideReturns p s (egressUp p s) := by
  obtain ⟨-, -, -, _, _, _, shape⟩ := evaluateAll p classesUp classesUp_nodup s
  have evaluated : SideReturns p s (classesUp.foldl (fun s c => evaluateOffer p c s) s) := by
    rw [shape]
    exact .of_eq rfl rfl rfl
  exact (evaluated.trans (.of_rests (setCadence_traffic _ p _))).trans (.of_rests (offer_traffic _ p))

end

end Sys2Proof.Machine
end

section
/-! SUPPORT. The invariant of the frames and their cells (R8 to R12, R51, R58, R77), and what carries it over: the acts
of the egress side, and the acts of the agent, which leave every frame where it is. -/

namespace Sys2Proof.Machine

/-! ## Cells accounted for -/

section

variable {s t : State}

/-- The cells bound for `e` are those of the frame in reception and those of the egress side. -/
theorem heldCells_eq (s : State) (e : Line) : s.heldCells e = (s.cls.get e.opposite).cells + s.sideCells e :=
  Nat.add_assoc _ _ _

theorem heldCells_congr (e : Line) (cls : (t.cls.get e.opposite).cells = (s.cls.get e.opposite).cells)
    (side : t.sideCells e = s.sideCells e) : t.heldCells e = s.heldCells e := by
  rw [heldCells_eq, heldCells_eq, cls, side]

/-- Cells given back by frames that hold them no longer. -/
theorem State.Conserves.returned (h : s.Conserves) {e : Line} {k : Nat} (pool : s.pool.Returned e k t.pool)
    (own : t.heldCells e + k = s.heldCells e) (other : t.heldCells e.opposite = s.heldCells e.opposite) :
    t.Conserves := by
  obtain ⟨total, used⟩ := h
  obtain ⟨free', used', -⟩ := pool
  refine ⟨?_, fun q => ?_⟩
  · cases e <;> simp only [Line.opposite] at other <;> omega
  · rw [used']
    obtain rfl | rfl := Line.eq_or_opposite e q
    · rw [PerLine.get_set_same, used]
      omega
    · rw [PerLine.get_set_opposite, used, other]

/-- R77: cells granted to a frame that now holds them. -/
theorem State.Conserves.taken (h : s.Conserves) {e : Line} {k : Nat} (fits : k ≤ s.pool.free)
    (pool : t.pool = s.pool.take e k) (own : t.heldCells e = s.heldCells e + k)
    (other : t.heldCells e.opposite = s.heldCells e.opposite) : t.Conserves := by
  obtain ⟨total, used⟩ := h
  unfold State.Conserves
  rw [pool]
  refine ⟨?_, fun q => ?_⟩
  · simp only [Pool.take]
    cases e <;> simp only [Line.opposite] at other <;> omega
  · simp only [Pool.take]
    obtain rfl | rfl := Line.eq_or_opposite e q
    · rw [PerLine.get_set_same, used, own]
    · rw [PerLine.get_set_opposite, used, other]

/-- The account reads the free and the used counts of the pool and the cells held. -/
theorem State.Conserves.of_eq (h : s.Conserves) (free : t.pool.free = s.pool.free) (used : t.pool.used = s.pool.used)
    (held : ∀ e, t.heldCells e = s.heldCells e) : t.Conserves := by
  unfold State.Conserves at h ⊢
  rw [free, used, held, held]
  simpa only [held] using h

theorem State.Conserves.rests (h : s.Conserves) (traffic : TrafficRests s t) (cls : t.cls = s.cls) : t.Conserves :=
  h.of_eq (by rw [traffic.pool]) (by rw [traffic.pool]) fun e =>
    heldCells_congr e (by rw [cls]) (sideCells_congr traffic.queues traffic.tx e)

theorem State.Conserves.egress (h : s.Conserves) {p : Line} (reach : EgressReach p s t) (side : SideReturns p s t) :
    t.Conserves := by
  obtain ⟨k, pool, cells⟩ := side
  refine h.returned pool ?_ (heldCells_congr _ (by rw [reach.cls]) (sideCells_opposite reach))
  rw [heldCells_eq, heldCells_eq, reach.cls]
  omega

/-! ## The invariant carried over -/

/-- A delimiter and a classifier stay in step while the states that the invariant reads stand. -/
theorem State.Follows.of_eq {l : Line} (h : s.Follows l) (line : (t.port.get l).line = (s.port.get l).line)
    (rx : (t.port.get l).rx.state = (s.port.get l).rx.state) (state : (t.cls.get l).state = (s.cls.get l).state)
    (reservation : (t.cls.get l).reservation.isSome = (s.cls.get l).reservation.isSome) : t.Follows l := by
  unfold State.Follows at h ⊢
  rw [line, rx, state, reservation]
  exact h

/-- Adoption stays in step while no adoption begins and each frame in classification stays there. -/
theorem State.Adopts.of_eq (h : s.Adopts) (phase : ∀ m, t.store.phase = .adopting m → s.store.phase = .adopting m)
    (judging : ∀ l, (s.cls.get l).state = .judging → (t.cls.get l).state = .judging) : t.Adopts := by
  intro m adopting
  obtain ⟨left, unadopted⟩ := h m (phase m adopting)
  exact ⟨left, fun l open_ => judging l (unadopted l open_)⟩

/-- From `s` to `t` no frame has moved, and no adoption has begun. -/
structure AgentRests (s t : State) : Prop where
  port : t.port = s.port
  cls : t.cls = s.cls
  phase : ∀ m, t.store.phase = .adopting m → s.store.phase = .adopting m
  traffic : TrafficRests s t

namespace AgentRests

variable {u : State}

theorem refl (s : State) : AgentRests s s := ⟨rfl, rfl, fun _ => id, .refl s⟩

theorem trans (h : AgentRests s t) (k : AgentRests t u) : AgentRests s u :=
  ⟨k.port.trans h.port, k.cls.trans h.cls, fun m adopting => h.phase m (k.phase m adopting), h.traffic.trans k.traffic⟩

theorem of_egress {p : Line} (reach : EgressReach p s t) (traffic : TrafficRests s t) : AgentRests s t :=
  ⟨reach.port, reach.cls, fun _ => by rw [reach.store]; exact id, traffic⟩

/-- A command that stays within the agent, and begins a copy at most. -/
theorem of_command (reach : CommandReach s t)
    (phase : ∀ m, t.store.phase = .adopting m → s.store.phase = .adopting m) : AgentRests s t := by
  obtain ⟨_, _, _, _, rfl, -⟩ := reach
  exact ⟨rfl, rfl, phase, ⟨rfl, rfl, rfl, rfl⟩⟩

end AgentRests

namespace State.FramesInv

theorem follows (h : s.FramesInv) (l : Line) : s.Follows l := h.1 l

theorem adopts (h : s.FramesInv) : s.Adopts := h.2.1

theorem conserves (h : s.FramesInv) : s.Conserves := h.2.2

theorem egress (h : s.FramesInv) {p : Line} (reach : EgressReach p s t) (side : SideReturns p s t) : t.FramesInv :=
  ⟨fun l => (h.follows l).of_eq (by rw [reach.port]) (by rw [reach.port]) (by rw [reach.cls]) (by rw [reach.cls]),
    h.adopts.of_eq (fun m => by rw [reach.store]; exact id) fun l => by rw [reach.cls]; exact id,
    h.conserves.egress reach side⟩

theorem rests (h : s.FramesInv) (k : AgentRests s t) : t.FramesInv :=
  ⟨fun l => (h.follows l).of_eq (by rw [k.port]) (by rw [k.port]) (by rw [k.cls]) (by rw [k.cls]),
    h.adopts.of_eq k.phase fun l => by rw [k.cls]; exact id, h.conserves.rests k.traffic k.cls⟩

end State.FramesInv

end

/-- R7, R77: at power-on every cell is free, and the launches in progress are cut. -/
theorem powerOnFrom_framesInv (straps : BitVec 6) (low : Bool) (s : State) :
    ({ powerOnFrom straps s with resetLow := low } : State).FramesInv := by
  obtain ⟨follows, adopts, conserves⟩ := powerOn_framesInv straps
  refine ⟨follows, adopts, conserves.of_eq rfl rfl fun e => heldCells_congr e rfl ?_⟩
  have cut : ∀ e, (({ powerOnFrom straps s with resetLow := low } : State).tx.get e).cells = 0 := fun e => by
    cases e <;> exact idle_cells (cut_launch _)
  have free : ∀ e, ((State.powerOn straps).tx.get e).cells = 0 := fun e => by cases e <;> rfl
  unfold State.sideCells
  rw [cut, free]
  rfl

theorem fullReset_framesInv (s : State) : (fullReset s).FramesInv := powerOnFrom_framesInv _ _ s

/-! ## The flip and the ends of launches -/

section

variable {s : State}

theorem flipAct_framesInv (h : s.FramesInv) (s0 : State) (rest : List FlipAct) (a : FlipAct) :
    (flipAct s0 rest a s).FramesInv := h.egress (flipAct_reach s s0 rest a) (flipAct_side s0 rest a)

theorem flipMarks_get (l : Line) : s.flipMarks.get l = !s.inClassification l := by cases l <;> rfl

/-- R48: the flip in the table store: the classifiers with a frame in classification are those not adopted. -/
theorem flipStore_framesInv (h : s.FramesInv) : (flipStore s).FramesInv := by
  rw [flipStore_eq]
  refine ⟨h.follows, fun m adopting => ?_, h.conserves⟩
  have phase : s.flipPhase = .adopting m := adopting
  unfold State.flipPhase at phase
  split at phase
  · exact absurd phase (by simp)
  · obtain rfl := Phase.adopting.inj phase
    refine ⟨Bool.eq_false_iff.2 ‹_›, fun l unadopted => ?_⟩
    rw [flipMarks_get, State.inClassification] at unadopted
    simpa using unadopted

theorem flip_framesInv (h : s.FramesInv) : (flip s).FramesInv :=
  flipActs_keeps State.FramesInv s (fun rest a _ k => flipAct_framesInv k s rest a) _ _ (flipStore_framesInv h)

theorem completeLaunch_framesInv (h : s.FramesInv) (p : Line) {x : Launch} (busy : (s.tx.get p).launch = some x) :
    (completeLaunch p x s).FramesInv := by
  unfold completeLaunch
  dsimp only
  split
  · exact fullReset_framesInv _
  · exact h.egress (((setTx_reach s p _).trans (account_reach _ p _)).trans (offer_reach _ p p))
      ((account_side busy _).trans (.of_rests (offer_traffic _ p)))

end

/-! ## The management agent -/

/-- From `s` to `t` no frame has moved, or a FULL reset has taken effect (R159). -/
def AgentRestsOrResets (s t : State) : Prop := AgentRests s t ∨ ∃ u, t = fullReset u

namespace AgentRestsOrResets

variable {s t u : State}

theorem after (h : AgentRests s t) (k : AgentRestsOrResets t u) : AgentRestsOrResets s u := k.imp_left h.trans

theorem framesInv (k : AgentRestsOrResets s t) (h : s.FramesInv) : t.FramesInv := by
  obtain rests | ⟨u, rfl⟩ := k
  · exact h.rests rests
  · exact fullReset_framesInv u

end AgentRestsOrResets

section

variable (s : State)

/-- The agent's own records hold no frames. -/
theorem setAgent_still (a : Agent) : AgentRests s (s.setAgent a) := ⟨rfl, rfl, fun _ => id, ⟨rfl, rfl, rfl, rfl⟩⟩

theorem setContext_still (i : Fin 4) (c : Option Context) : AgentRests s (s.setContext i c) :=
  ⟨rfl, rfl, fun _ => id, ⟨rfl, rfl, rfl, rfl⟩⟩

theorem touch_still (i : Fin 4) : AgentRests s (touch i s) := ⟨rfl, rfl, fun _ => id, ⟨rfl, rfl, rfl, rfl⟩⟩

theorem onRole_still (i : Fin 4) (f : Role → Role) : AgentRests s (onRole i f s) := setContext_still s i _

theorem nextRequest_still : AgentRests s (nextRequest s) := setAgent_still s _

theorem finishCommand_still (h : InHand) (st : Status) (d : List Byte) : AgentRests s (finishCommand h st d s) :=
  setAgent_still s _

theorem sendReply_still (l : Line) (frame : List Byte) (awaited : Bool) :
    AgentRests s (sendReply l frame awaited s) :=
  .of_egress (enqueue_reach s l l _) (enqueue_traffic s l _)

theorem answer_still (status : Byte) (h : InHand) : AgentRestsOrResets s (answer status h s) := by
  unfold answer
  dsimp only
  split
  · exact .inl (((setContext_still s _ _).trans (sendReply_still _ _ _ _)).trans (nextRequest_still _))
  · split
    · exact .inl (((setContext_still s _ _).trans (sendReply_still _ _ _ _)).trans (setAgent_still _ _))
    · exact .inr ⟨_, rfl⟩

theorem beginRequest_still (i : Fin 4) (r : Request) : AgentRestsOrResets s (beginRequest i r s) := by
  unfold beginRequest
  dsimp only
  split
  · exact .inl ((onRole_still s _ _).trans (setAgent_still _ _))
  · exact .after (onRole_still s _ _) (answer_still _ _ _)

theorem replay_still (i : Fin 4) (l : Line) : AgentRests s (replay i l s) := by
  unfold replay
  dsimp only
  refine .trans ?_ (nextRequest_still _)
  split
  · exact (onRole_still s _ _).trans (sendReply_still _ _ _ _)
  · exact onRole_still s _ _

theorem judgeRequest_still (i : Fin 4) (c : Context) (r : Request) : AgentRestsOrResets s (judgeRequest i c r s) := by
  unfold judgeRequest
  split
  · exact .after (setContext_still s _ _) (beginRequest_still _ i r)
  · exact .inl (replay_still s i r.line)
  · exact .inl ((sendReply_still s _ _ _).trans (nextRequest_still _))

theorem takeRequest_still (r : Request) : AgentRestsOrResets s (takeRequest r s) := by
  unfold takeRequest
  dsimp only
  split
  · split
    · exact .after (touch_still s _) (judgeRequest_still _ _ _ r)
    · exact .inl (.refl s)
  · split
    · exact .after ((setContext_still s _ _).trans (touch_still _ _)) (beginRequest_still _ _ r)
    · exact .inl (.refl s)

theorem goOn_still (h : InHand) : AgentRestsOrResets s (goOn h s) := by
  unfold goOn
  split
  · exact answer_still s _ h
  · split
    · exact .inl (finishCommand_still s h _ _)
    · exact .inl (.refl s)

/-- R53: a copy begins, and no adoption. -/
theorem startCopy_still : AgentRests s (startCopy s) := .of_command (startCopy_reach s) fun _ => nofun

theorem expireLease_still (i : Fin 4) : AgentRests s (expireLease i s) := by
  unfold expireLease
  dsimp only
  refine .trans ?_ (.of_egress (notify_reach _ .n _ _) (notify_traffic _ _ _))
  split
  · exact (onRole_still s _ _).trans (startCopy_still _)
  · exact onRole_still s _ _

theorem copyDone_phase : (copyDone s).store.phase = .steady := by
  unfold copyDone
  split
  · obtain ⟨_, _, shape⟩ := endWait_shape (finishCopy s) ‹_›
    rw [shape]
    rfl
  · rfl

theorem copyDone_still : AgentRests s (copyDone s) :=
  .of_command (copyDone_reach s) fun _ => by rw [copyDone_phase]; exact nofun

/-! ## Commands of a request -/

variable (h : InHand)

theorem openWith_still (length : Half) : AgentRests s (openWith length h s) :=
  .of_command (openWith_reach h s length) fun _ => by
    unfold openWith
    split
    · exact id
    · split <;> split <;> exact id

theorem waitedRevert_still : AgentRests s (waitedRevert h s) :=
  .of_command (waitedRevert_reach h s) fun _ => nofun

theorem closeNow_still : AgentRests s (closeNow h s) := by
  unfold closeNow
  split
  · exact waitedRevert_still s h
  · exact (onRole_still s _ _).trans (finishCommand_still _ h _ _)

theorem revertNow_still : AgentRests s (revertNow h s) := by
  unfold revertNow
  split
  · exact waitedRevert_still s h
  · exact finishCommand_still s h _ _

theorem readTable_still (ops : List Byte) : AgentRests s (readTable ops h s) := by
  unfold readTable
  dsimp only
  split
  · exact finishCommand_still s h _ _
  · split
    · exact finishCommand_still s h _ _
    · split
      · exact finishCommand_still s h _ _
      · split
        · exact finishCommand_still s h _ _
        · split <;> exact finishCommand_still s h _ _

theorem finishWrite_still (t : TableId) (i : Nat) (b : Option Bank) : AgentRests s (finishWrite t i b h s) := by
  refine .of_command (finishWrite_reach h s t i b) fun _ => ?_
  cases b with
  | none => exact id
  | some b =>
    show ({ s.store.setStaging b with dirty := true } : TableStore).phase = _ → _
    unfold TableStore.setStaging
    cases s.store.active <;> exact id

theorem writeEntry_still (ops : List Byte) : AgentRests s (writeEntry ops h s) := by
  unfold writeEntry
  dsimp only
  split
  · exact finishCommand_still s h _ _
  · split
    · exact finishCommand_still s h _ _
    · split
      · exact finishCommand_still s h _ _
      · exact finishWrite_still s h _ _ _

theorem fillTable_still (ops : List Byte) : AgentRests s (fillTable ops h s) := by
  unfold fillTable
  split
  · exact finishCommand_still s h _ _
  · split
    · exact finishCommand_still s h _ _
    · exact finishWrite_still s h _ _ _

theorem statNow_still (ops : List Byte) : AgentRests s (statNow ops h s) := by
  refine .of_command (statNow_reach h s ops) fun _ => ?_
  unfold statNow
  split
  · exact id
  · split
    · exact id
    · exact id
    · unfold readCounters
      dsimp only
      split <;> exact id

theorem captNow_still (ops : List Byte) : AgentRests s (captNow ops h s) := by
  unfold captNow
  split <;> exact finishCommand_still s h _ _

theorem freeNow_still (ops : List Byte) : AgentRests s (freeNow ops h s) := by
  have emptied : ∀ x, AgentRests s (s.setCapture x) := fun _ => ⟨rfl, rfl, fun _ => id, ⟨rfl, rfl, rfl, rfl⟩⟩
  unfold freeNow
  split
  · exact finishCommand_still s h _ _
  · split
    · exact (emptied _).trans (finishCommand_still _ h _ _)
    · exact finishCommand_still s h _ _
    · exact finishCommand_still s h _ _

theorem queryNow_still : AgentRests s (queryNow h s) := by
  unfold queryNow
  dsimp only
  split
  · split
    · exact setAgent_still s _
    · exact finishCommand_still s h _ _
  · exact finishCommand_still s h _ _

theorem clearCounters_still : AgentRests s (clearCounters h s) :=
  ⟨rfl, rfl, fun _ => id, ⟨rfl, rfl, rfl, rfl⟩⟩

/-- What a command of a request does to the frames: nothing, a flip, or the TRAFFIC reset. -/
theorem command_still {i : Instr} {f : InHand → State → State} (means : commandMeaning i = some f) :
    AgentRests s (f h s) ∨ f h s = waitForCopy h (flip s) ∨ f h s = finishCommand h .ok [] (trafficReset s) := by
  have refused : ∀ st d, AgentRests s (finishCommand h st d s) := finishCommand_still s h
  cases i with
  | openSession ops =>
    obtain rfl := Option.some.inj means
    exact .inl (withForm_leads s h (refused _ _) (openWith_still s h _))
  | closeSession ops =>
    obtain rfl := Option.some.inj means
    exact .inl (editorOnly_leads s h (refused _ _) (withForm_leads s h (refused _ _) (closeNow_still s h)))
  | rd ops =>
    obtain rfl := Option.some.inj means
    exact .inl (withForm_leads s h (refused _ _) (readTable_still s h ops))
  | wr ops =>
    obtain rfl := Option.some.inj means
    exact .inl (editorOnly_leads s h (refused _ _) (writeEntry_still s h ops))
  | fill ops =>
    obtain rfl := Option.some.inj means
    exact .inl (editorOnly_leads s h (refused _ _) (fillTable_still s h ops))
  | commit ops =>
    obtain rfl := Option.some.inj means
    unfold editorOnly withForm commitNow
    split
    · split
      · split
        · exact .inl (refused _ _)
        · split
          · exact .inr (.inl rfl)
          · exact .inl (refused _ _)
      · exact .inl (refused _ _)
    · exact .inl (refused _ _)
  | revert ops =>
    obtain rfl := Option.some.inj means
    exact .inl (editorOnly_leads s h (refused _ _) (withForm_leads s h (refused _ _) (revertNow_still s h)))
  | stat ops =>
    obtain rfl := Option.some.inj means
    exact .inl (withForm_leads s h (refused _ _) (statNow_still s h ops))
  | capt ops =>
    obtain rfl := Option.some.inj means
    exact .inl (withForm_leads s h (refused _ _) (captNow_still s h ops))
  | free ops =>
    obtain rfl := Option.some.inj means
    exact .inl (withForm_leads s h (refused _ _) (freeNow_still s h ops))
  | query ops =>
    obtain rfl := Option.some.inj means
    exact .inl (withForm_leads s h (refused _ _) (queryNow_still s h))
  | resetCounters =>
    obtain rfl := Option.some.inj means
    exact .inl (clearCounters_still s h)
  | resetTraffic =>
    obtain rfl := Option.some.inj means
    exact .inr (.inr rfl)
  | resetFull =>
    obtain rfl := Option.some.inj means
    exact .inl (setAgent_still s _)
  | resetnAssert | resetnRelease _ | symbolReceived _ _ | egressDecision _ | launchCompletion _ | residenceExpiry _ _
  | windowRelease _ _ | ageingEvent _ _ | cadenceExpiry _ | requestTake | copyBackCompletion | leaseExpiry =>
    exact absurd means (by simp [commandMeaning])

end

end Sys2Proof.Machine
end

section
/-! SUPPORT. Reception keeps the frames and their cells accounted for: the delimiter and the classifier of a line
through the start, the bytes, the end and the abort of a frame (R8 to R12, R51, R58 to R76). -/

namespace Sys2Proof.Machine

/-! ## Adoption when a frame leaves classification -/

section

variable {s t : State} {l : Line}

/-- R51: a frame of line `l` that leaves classification leaves its classifier adopted. -/
theorem State.Adopts.leaving (h : s.Adopts) (phase : t.store.phase = s.phaseLeaving l)
    (other : t.cls.get l.opposite = s.cls.get l.opposite) : t.Adopts := fun m adopting => by
  rw [phase, State.phaseLeaving] at adopting
  split at adopting
  · rename_i m' before
    split at adopting
    · exact absurd adopting (by simp)
    · rename_i waits
      obtain rfl := Phase.adopting.inj adopting
      have unadopted : m'.get l.opposite = false := by simpa using waits
      refine ⟨?_, fun q open_ => ?_⟩
      · cases l <;> simpa [PerLine.set, PerLine.get, Line.opposite] using unadopted
      · obtain rfl | rfl := Line.eq_or_opposite l q
        · rw [PerLine.get_set_same] at open_
          exact absurd open_ (by simp)
        · rw [other]
          exact (h m' before).2 _ unadopted
  · exact absurd adopting (by simp)
  · exact absurd adopting (by simp)

/-- R42, R51: a frame of line `l` that ends leaves classification if it was there; if it was not, its classifier was
adopted. -/
theorem State.Adopts.ending (h : s.Adopts) (phase : t.store.phase = s.phaseEnding l)
    (other : t.cls.get l.opposite = s.cls.get l.opposite) : t.Adopts := by
  rw [State.phaseEnding] at phase
  split at phase
  · exact h.leaving phase other
  · rename_i decided
    refine fun m adopting => ?_
    obtain ⟨left, unadopted⟩ := h m (phase ▸ adopting)
    refine ⟨left, fun q open_ => ?_⟩
    obtain rfl | rfl := Line.eq_or_opposite l q
    · exact absurd (unadopted _ open_) decided
    · rw [other]
      exact unadopted _ open_

/-- A frame of line `l` that stays in classification, or starts there. -/
theorem State.Adopts.judging (h : s.Adopts) (phase : t.store.phase = s.store.phase)
    (own : (t.cls.get l).state = .judging) (other : t.cls.get l.opposite = s.cls.get l.opposite) : t.Adopts := by
  refine h.of_eq (fun m => by rw [phase]; exact id) fun q judging => ?_
  obtain rfl | rfl := Line.eq_or_opposite l q
  · exact own
  · rw [other]
    exact judging

/-! ## What a frame of a line may move -/

/-- A frame of line `l` has moved: its own delimiter and classifier are in step, adoption and the cells are, and what
belongs to the opposite line stands. -/
theorem State.FramesInv.frame (h : s.FramesInv) (reach : FrameReach l s t) (own : t.Follows l) (adopts : t.Adopts)
    (conserves : t.Conserves) : t.FramesInv := by
  refine ⟨fun q => ?_, adopts, conserves⟩
  obtain rfl | rfl := Line.eq_or_opposite l q
  · exact own
  · exact (h.follows _).of_eq (by rw [reach.port]) (by rw [reach.port]) (by rw [reach.cls]) (by rw [reach.cls])

/-- A frame in reception is one of an UP line, so its states need agree only with each other. -/
theorem State.Follows.inFrame (h : s.Follows l) (received : (s.port.get l).rx.state ≠ .idle)
    (line : (t.port.get l).line = (s.port.get l).line) (rx : (t.port.get l).rx.state ≠ .idle)
    (state : (t.cls.get l).state ≠ .idle)
    (judging : (t.port.get l).rx.state = .header ∨ (t.port.get l).rx.state = .inspect →
      (t.cls.get l).state = .judging)
    (carries : (t.cls.get l).state = .carrying ↔ (t.cls.get l).reservation.isSome = true) : t.Follows l := by
  obtain ⟨-, down, -⟩ := h
  exact ⟨iff_of_false rx state, fun notUp => absurd (down (line ▸ notUp)) received, judging, carries⟩

/-- A line whose delimiter and classifier are both IDLE. -/
theorem follows_idle (rx : (t.port.get l).rx.state = .idle) (cls : t.cls.get l = Classifier.empty) : t.Follows l := by
  unfold State.Follows
  rw [rx, cls]
  exact ⟨iff_of_true rfl rfl, fun _ => rfl, nofun, by simp [Classifier.empty]⟩

/-- A classifier outside CARRYING holds no reservation. -/
theorem State.Follows.reservation_none (h : s.Follows l) (state : (s.cls.get l).state ≠ .carrying) :
    (s.cls.get l).reservation = none := by
  obtain ⟨-, -, -, carries⟩ := h
  simpa using mt carries.2 state

theorem classifier_cells_none {c : Classifier} (none : c.reservation = none) : c.cells = 0 := by
  unfold Classifier.cells
  rw [none]

theorem classifier_cells_congr {c d : Classifier} (same : c.reservation = d.reservation) : c.cells = d.cells := by
  unfold Classifier.cells
  rw [same]

/-- The account stands while the classifier of line `l` keeps its reservation and no other cell moves. -/
theorem State.Conserves.kept (h : s.Conserves) {c : Classifier} (cls : t.cls = s.cls.set l c)
    (cells : c.cells = (s.cls.get l).cells) (free : t.pool.free = s.pool.free) (used : t.pool.used = s.pool.used)
    (queues : t.queues = s.queues) (tx : t.tx = s.tx) : t.Conserves := by
  refine h.of_eq free used fun e => heldCells_congr e ?_ (sideCells_congr queues tx e)
  rw [cls, PerLine.get_set]
  split
  · rename_i same
    rw [cells, same]
  · rfl

/-- R79: a reservation given back, by a classifier that holds none then. -/
theorem State.Conserves.givenBack (h : s.Conserves) {c : Classifier} (cls : t.cls = s.cls.set l c)
    (cells : c.cells = 0) (pool : t.pool = s.pool.giveBack l.opposite (s.cls.get l).reservation)
    (queues : t.queues = s.queues) (tx : t.tx = s.tx) : t.Conserves := by
  have side := sideCells_congr queues tx
  refine h.returned (pool ▸ giveBack_returned s.pool l.opposite (s.cls.get l)) ?_ (heldCells_congr _ ?_ (side _))
  · rw [heldCells_eq, heldCells_eq, Line.opposite_opposite, cls, PerLine.get_set_same, cells, side]
    omega
  · rw [cls, Line.opposite_opposite, PerLine.get_set_opposite]

/-! ## Frame start and abort -/

theorem frameStart_framesInv (h : s.FramesInv) (up : (s.port.get l).line = .up)
    (idle : (s.port.get l).rx.state = .idle) : (frameStart l s).FramesInv := by
  obtain ⟨idles, -⟩ := h.follows l
  have free : (s.cls.get l).reservation = none := (h.follows l).reservation_none (by simp [idles.1 idle])
  refine h.frame (frameStart_frame l s) ?_ ?_ ?_ <;> rw [frameStart_eq]
  · unfold State.Follows
    simp only [PerLine.get_set_same, up]
    simp [Classifier.empty]
  · exact h.adopts.judging (l := l) rfl (by simp only [PerLine.get_set_same]) (PerLine.get_set_opposite _ _ _)
  · exact h.conserves.kept (l := l) rfl (classifier_cells_congr free.symm) rfl rfl rfl rfl

theorem frameAbort_framesInv (h : s.FramesInv) (l : Line) : (frameAbort l s).FramesInv := by
  refine h.frame (frameAbort_frame l s) ?_ ?_ ?_ <;> rw [frameAbort_eq]
  · exact follows_idle (by simp [Reception.none]) (PerLine.get_set_same _ _ _)
  · exact h.adopts.ending rfl (PerLine.get_set_opposite _ _ _)
  · exact h.conserves.givenBack (l := l) rfl rfl rfl rfl rfl

end

/-! ## Header complete -/

section

variable {s : State} {l : Line}

theorem State.FramesInv.judging (h : s.FramesInv)
    (classified : (s.port.get l).rx.state = .header ∨ (s.port.get l).rx.state = .inspect) :
    (s.cls.get l).state = .judging := by
  obtain ⟨-, -, judging, -⟩ := h.follows l
  exact judging classified

theorem headerComplete_framesInv (h : s.FramesInv) (header : (s.port.get l).rx.state = .header) :
    (headerComplete l s).FramesInv := by
  have judging := h.judging (.inl header)
  have free : (s.cls.get l).reservation = none := (h.follows l).reservation_none (by simp [judging])
  have received : (s.port.get l).rx.state ≠ .idle := by simp [header]
  have reach := headerComplete_frame l s
  obtain ⟨r, k, drop, counts⟩ | kept :=
    judgeHeader_cases (s.store.bank (s.cls.get l).bank).identity (headerFacts (s.port.get l).rx.bytes)
  · rw [headerComplete_drop l s drop counts] at reach ⊢
    refine h.frame reach ((h.follows l).inFrame received reach.line ?_ ?_ ?_ ?_)
      (h.adopts.leaving rfl (PerLine.get_set_opposite _ _ _)) (h.conserves.kept (l := l) rfl rfl rfl rfl rfl rfl)
    · simp
    · simp
    · simp
    · simp [free]
  · rw [headerComplete_kept l s judging kept] at reach ⊢
    refine h.frame reach ((h.follows l).inFrame received reach.line ?_ ?_ (fun _ => ?_) ?_)
      (h.adopts.judging rfl ?_ (PerLine.get_set_opposite _ _ _)) (h.conserves.kept (l := l) rfl rfl rfl rfl rfl rfl)
    · simp
    · simp [judging]
    · simp [judging]
    · simp [judging, free]
    · simp [judging]

end

/-! ## Inspection complete -/

/-- What inspection complete makes of the classifier `c` of line `l`, now `k`, and of the pool: the classifier keeps its
reservation and no cell moves, or it is CARRYING and holds the cells granted to its frame (R62, R70, R71). -/
inductive Inspected (l : Line) (c k : Classifier) (before after : Pool) : Prop
  | keeps (state : k.state = c.state ∨ k.state = .draining ∨ k.state = .gathering)
      (reservation : k.reservation = c.reservation) (free : after.free = before.free) (used : after.used = before.used)
  | granted (d : Descriptor) (state : k.state = .carrying) (reservation : k.reservation = some d)
      (fits : d.Fits l.opposite d.cls) (receiving : d.state = .receiving) (room : d.cells ≤ before.free)
      (pool : after = before.take l.opposite d.cells)

/-- What a classifier does with its slot number is no matter of its cells. -/
theorem Inspected.of_eq {l : Line} {c k k' : Classifier} {before after : Pool} (h : Inspected l c k before after)
    (state : k'.state = k.state) (reservation : k'.reservation = k.reservation) : Inspected l c k' before after := by
  cases h with
  | keeps st held free used => exact .keeps (by rw [state]; exact st) (by rw [reservation]; exact held) free used
  | granted d st held fits receiving room pool =>
    exact .granted d (by rw [state]; exact st) (by rw [reservation]; exact held) fits receiving room pool

section

variable (s : State) (l : Line) (f : HeaderFacts) (j : Judgement)

/-- R70, R71: the judgement of a frame drops it, refuses it its cells or grants them. -/
theorem applyJudgement_inspected (decided : j.outcome.Decided) :
    ∃ k, (applyJudgement l f j s).cls = s.cls.set l k ∧
      Inspected l (s.cls.get l) k s.pool (applyJudgement l f j s).pool := by
  obtain ⟨c, pass⟩ | ⟨r, drop, counts⟩ := decided
  · by_cases above : (s.classPol l.opposite c).cellLimit.toNat < s.occupancy l.opposite c + cellsFor (20 + f.payload)
    · rw [applyJudgement_queueLimit s l f j pass above]
      exact ⟨_, rfl, .keeps (.inr (.inl rfl)) rfl rfl rfl⟩
    · have within := Nat.le_of_not_lt above
      cases granted : grantTest s.pool s.active.devpol l.opposite (cellsFor (20 + f.payload)) with
      | true =>
        rw [applyJudgement_granted s l f j pass within granted]
        have room : cellsFor (20 + f.payload) ≤ s.pool.free := by
          simp only [grantTest, Bool.and_eq_true, decide_eq_true_eq] at granted
          exact granted.1
        exact ⟨_, rfl, .granted _ rfl rfl ⟨(Line.opposite_opposite l).symm, rfl, rfl⟩ rfl room rfl⟩
      | false =>
        obtain ⟨cls, pool, -⟩ := applyJudgement_refused_effects s l f j pass within granted
        exact ⟨_, cls, .keeps (.inr (.inl rfl)) rfl (by rw [pool]) (by rw [pool])⟩
  · obtain ⟨k, counts⟩ := Option.isSome_iff_exists.1 counts
    rw [applyJudgement_drop s l f j drop counts]
    exact ⟨_, rfl, .keeps (.inr (.inl rfl)) rfl rfl rfl⟩

/-- R62, R63, R72: inspection complete, as the queues and the cells see it. -/
theorem inspectionComplete_inspected :
    let t := inspectionComplete l s
    ∃ k, t.cls = s.cls.set l k ∧ Inspected l (s.cls.get l) k s.pool t.pool ∧
      (t.port.get l).rx.state = (if k.goesOn then .body else .discard) ∧ t.store.phase = s.phaseLeaving l ∧
      t.queues = s.queues ∧ t.pacer = s.pacer ∧ t.tx = s.tx := by
  intro t
  by_cases management : (s.cls.get l).outcome = .management
  · have entry : t = _ := inspectionComplete_management s l management
    rw [entry]
    refine ⟨_, rfl, .keeps (.inr (.inr rfl)) rfl rfl rfl, ?_, rfl, rfl, rfl, rfl⟩
    rw [PerLine.get_set_same]
    rfl
  · by_cases pending : (s.cls.get l).outcome = .pending ∧ ∃ f, (s.cls.get l).facts = some f
    · obtain ⟨outcome, f, facts⟩ := pending
      have entry : t = _ := inspectionComplete_judged s l f outcome facts rfl
      generalize judged : (s.store.bank (s.cls.get l).bank).judge l f ((s.port.get l).rx.bytes.take 64) = j at entry
      have decided : j.outcome.Decided := judged ▸ judge_decided _ _ _ _
      obtain ⟨k, cls, inspected⟩ := applyJudgement_inspected s l f j decided
      obtain ⟨_, _, _, _, _, _, applied⟩ := applyJudgement_shape s l f j decided
      obtain ⟨captured, -, shape⟩ :=
        capturing_effects (applyJudgement l f j s) l f ((s.port.get l).rx.bytes.take 64) j.trigger
      rw [cls, PerLine.get_set_same, PerLine.set_set] at captured
      rw [cls, PerLine.get_set_same] at entry
      rw [entry]
      refine ⟨_, captured, ?_, ?_, rfl, ?_, ?_, ?_⟩
      · rw [shape]
        exact inspected.of_eq rfl rfl
      · rw [PerLine.get_set_same]
        rfl
      · rw [shape, applied]
      · rw [shape, applied]
      · rw [shape, applied]
    · have inspects : classifierInspect l ((s.port.get l).rx.bytes.take 64) s = leaveClassification l s := by
        unfold classifierInspect
        dsimp only
        split
        · exact absurd ‹_› management
        · exact absurd ⟨‹_›, _, ‹_›⟩ pending
        · rfl
      have entry : t = (leaveClassification l s).setRx l { (s.port.get l).rx with
          state := if ((leaveClassification l s).cls.get l).goesOn then .body else .discard } := by
        rw [← inspects]
        rfl
      rw [leaveClassification_eq] at entry
      rw [entry]
      exact ⟨s.cls.get l, (PerLine.set_get _ _).symm, .keeps (.inl rfl) rfl rfl rfl,
        congrArg (fun p : LinePort => p.rx.state) (PerLine.get_set_same _ _ _), rfl, rfl, rfl, rfl⟩

end

section

variable {s : State} {l : Line}

theorem inspectionComplete_framesInv (h : s.FramesInv) (inspect : (s.port.get l).rx.state = .inspect) :
    (inspectionComplete l s).FramesInv := by
  have judging := h.judging (.inr inspect)
  have free : (s.cls.get l).reservation = none := (h.follows l).reservation_none (by simp [judging])
  have received : (s.port.get l).rx.state ≠ .idle := by simp [inspect]
  have reach := inspectionComplete_frame l s
  obtain ⟨k, cls, inspected, rx, phase, queues, -, tx⟩ := inspectionComplete_inspected s l
  have own : (inspectionComplete l s).cls.get l = k := by rw [cls, PerLine.get_set_same]
  have goesOn : ((inspectionComplete l s).port.get l).rx.state = .body ∨
      ((inspectionComplete l s).port.get l).rx.state = .discard := by
    rw [rx]
    split <;> simp
  have states : k.state ≠ .idle ∧ (k.state = .carrying ↔ k.reservation.isSome = true) := by
    cases inspected with
    | keeps state reservation _ _ =>
      rw [reservation, free]
      rw [judging] at state
      obtain e | e | e := state <;> simp [e]
    | granted d state reservation _ _ _ _ => simp [state, reservation]
  have follows : (inspectionComplete l s).Follows l :=
    (h.follows l).inFrame received reach.line (by obtain e | e := goesOn <;> simp [e]) (own ▸ states.1)
      (by obtain e | e := goesOn <;> simp [e]) (own ▸ states.2)
  refine h.frame reach follows (h.adopts.leaving phase reach.cls) ?_
  cases inspected with
  | keeps state reservation same used =>
    exact h.conserves.kept cls (classifier_cells_congr reservation) same used queues tx
  | granted d state reservation _ _ room pool =>
    have side := sideCells_congr queues tx
    have held : k.cells = d.cells := by
      unfold Classifier.cells
      rw [reservation]
    refine h.conserves.taken room pool ?_ (heldCells_congr _ ?_ (side _))
    · rw [heldCells_eq, heldCells_eq, Line.opposite_opposite, own, held, side, classifier_cells_none free]
      omega
    · rw [Line.opposite_opposite, reach.cls]

/-! ## Bytes -/

theorem frameByte_framesInv (h : s.FramesInv) (b : Byte) (bad : Bool) : (frameByte l b bad s).FramesInv := by
  have pushed : (s.withFrameByte l b bad).FramesInv := by
    have reach : FrameReach l s (s.withFrameByte l b bad) := by constructor <;> simp [State.withFrameByte]
    exact h.frame reach ((h.follows l).of_eq reach.line (by rw [withFrameByte_rx]; rfl) rfl rfl) h.adopts h.conserves
  rw [frameByte_eq]
  split
  · rename_i at16
    exact headerComplete_framesInv pushed (by rw [withFrameByte_rx]; exact at16.1)
  · split
    · rename_i at64
      exact inspectionComplete_framesInv pushed (by rw [withFrameByte_rx]; exact at64.1)
    · exact pushed

end

/-! ## Frame end -/

theorem queueEntry_store (s : State) (l : Line) (d : Descriptor) (bytes : List Byte) :
    (queueEntry l d bytes s).store = s.store := by
  rw [queueEntry_eq]
  split
  · obtain ⟨_, _, _, _, _, shape⟩ := newHead_shape (s.joined l d bytes) l.opposite d.cls
    rw [shape]
    rfl
  · rfl

theorem endUnmarked_store (s : State) (l : Line) (v : EndVerdict) (bytes : List Byte) :
    (endUnmarked l v bytes s).store = s.store := by
  unfold endUnmarked
  dsimp only
  split
  · split
    · exact queueEntry_store _ l _ bytes
    · rfl
    · rw [dropReservation_giveBack]
      rfl
  · split
    · obtain ⟨_, _, shape⟩ := offerRequest_shape s l bytes
      rw [shape]
    · rfl
    · rfl
  · rfl
  · rfl
  · rfl

/-- The slot of a frame that has ended is settled, and no frame moves (R165). -/
theorem holdSlot_traffic (s : State) (l : Line) :
    TrafficRests s (holdSlot l s) ∧ (holdSlot l s).cls = s.cls ∧ (holdSlot l s).store = s.store := by
  obtain ⟨_, _, _, _, _, shape⟩ := holdSlot_shape s l
  rw [shape]
  exact ⟨⟨rfl, rfl, rfl, rfl⟩, rfl, rfl⟩

/-- R73, R74: at the end of an unmarked frame the classifier acts on the frame, settles its slot and is IDLE. -/
theorem classifierEnd_unmarked (s : State) (l : Line) (unmarked : (s.cls.get l).resetMark = false) (v : EndVerdict)
    (bytes : List Byte) :
    let u := endUnmarked l v bytes (leaveIfJudging l s)
    let t := classifierEnd l v bytes s
    TrafficRests u t ∧ t.cls = u.cls.set l Classifier.empty ∧ t.store = u.store := by
  intro u t
  by_cases good : v = .good
  · subst good
    have entry : t = _ := classifierEnd_good s l unmarked bytes
    obtain ⟨traffic, cls, store⟩ := holdSlot_traffic u l
    rw [entry]
    exact ⟨⟨traffic.pool, traffic.queues, traffic.pacer, traffic.tx⟩,
      congrArg (fun x : PerLine Classifier => x.set l Classifier.empty) cls, store⟩
  · have entry : t = _ := classifierEnd_failed s l unmarked good bytes
    rw [entry, dropSlot_eq]
    exact ⟨⟨rfl, rfl, rfl, rfl⟩, rfl, rfl⟩

/-- R42: a frame that ends leaves classification, if it was there. -/
theorem classifierEnd_phase (s : State) (l : Line) (v : EndVerdict) (bytes : List Byte) :
    (classifierEnd l v bytes s).store.phase = s.phaseEnding l := by
  cases marked : (s.cls.get l).resetMark with
  | true => rw [classifierEnd_marked s l marked]
  | false =>
    obtain ⟨-, -, store⟩ := classifierEnd_unmarked s l marked v bytes
    rw [store, endUnmarked_store, leaveIfJudging_eq]

section

variable {s : State} {l : Line}

/-- R83: the cells that a frame held in reception it holds in its queue. -/
theorem joined_conserves (h : s.Conserves) {d : Descriptor} (reservation : (s.cls.get l).reservation = some d)
    (bytes : List Byte) :
    ((s.setCls l { s.cls.get l with reservation := none }).joined l d bytes).Conserves := by
  generalize joins : (s.setCls l { s.cls.get l with reservation := none }).joined l d bytes = t
  have cls : t.cls = s.cls.set l { s.cls.get l with reservation := none } := by rw [← joins]; rfl
  have queue : t.queue l.opposite d.cls = s.queue l.opposite d.cls ++ [d.queuedAt s.timebase bytes] := by
    rw [← joins]
    exact joined_queue (s.setCls l _) l d bytes
  have queue_ne : ∀ q k, (q, k) ≠ (l.opposite, d.cls) → t.queue q k = s.queue q k := fun q k other => by
    rw [← joins]
    exact joined_queue_ne (s.setCls l _) l d bytes q k other
  have tx : t.tx = s.tx := by rw [← joins]; rfl
  have held : (s.cls.get l).cells = d.cells := by
    unfold Classifier.cells
    rw [reservation]
  refine h.of_eq (by rw [← joins]; rfl) (by rw [← joins]; rfl) fun e => ?_
  obtain rfl | rfl := Line.eq_or_opposite l e
  · refine heldCells_congr _ (by rw [cls, PerLine.get_set_opposite]) ?_
    unfold State.sideCells State.queuedCells
    simp only [tx, fun k => queue_ne e k (by simp)]
  · have moved := queuedCells_moved (s := s) (t := t) (p := l.opposite) (c := d.cls)
      fun k other => queue_ne _ k (by simp [other])
    rw [queue, List.map_append, List.sum_append] at moved
    rw [heldCells_eq, heldCells_eq, Line.opposite_opposite, cls, PerLine.get_set_same, held]
    simp only [State.sideCells, tx, Classifier.cells, Descriptor.queuedAt, List.map_cons, List.map_nil,
      List.sum_singleton] at moved ⊢
    omega

theorem queueEntry_cls (s : State) (l : Line) (d : Descriptor) (bytes : List Byte) :
    (queueEntry l d bytes s).cls = s.cls := by
  rw [queueEntry_eq]
  split
  · exact (newHead_reach (s.joined l d bytes) l.opposite d.cls).cls
  · rfl

theorem queueEntry_conserves (h : s.Conserves) {d : Descriptor} (reservation : (s.cls.get l).reservation = some d)
    (bytes : List Byte) :
    (queueEntry l d bytes (s.setCls l { s.cls.get l with reservation := none })).Conserves := by
  have joined := joined_conserves h reservation bytes
  rw [queueEntry_eq]
  split
  · exact joined.egress (newHead_reach _ _ _) (newHead_side _)
  · exact joined

/-- The end of a frame without a reservation moves no cell. -/
theorem endUnmarked_uncarried (state : (s.cls.get l).state ≠ .carrying) (v : EndVerdict) (bytes : List Byte) :
    TrafficRests s (endUnmarked l v bytes s) ∧ (endUnmarked l v bytes s).cls = s.cls := by
  unfold endUnmarked
  dsimp only
  split
  · exact absurd ‹_› state
  · split
    · obtain ⟨_, _, shape⟩ := offerRequest_shape s l bytes
      rw [shape]
      exact ⟨⟨rfl, rfl, rfl, rfl⟩, rfl⟩
    · exact ⟨⟨rfl, rfl, rfl, rfl⟩, rfl⟩
    · exact ⟨⟨rfl, rfl, rfl, rfl⟩, rfl⟩
  · exact ⟨⟨rfl, rfl, rfl, rfl⟩, rfl⟩
  · exact ⟨.refl s, rfl⟩
  · exact ⟨.refl s, rfl⟩

/-- R73, R74: an unmarked frame that ends leaves its cells to its descriptor in the queue, or gives them back. -/
theorem endUnmarked_conserves (h : s.Conserves)
    (carries : (s.cls.get l).state = .carrying ↔ (s.cls.get l).reservation.isSome = true) (v : EndVerdict)
    (bytes : List Byte) : ((endUnmarked l v bytes s).setCls l Classifier.empty).Conserves := by
  by_cases carrying : (s.cls.get l).state = .carrying
  · by_cases good : v = .good
    · subst good
      obtain ⟨d, reservation⟩ := Option.isSome_iff_exists.1 (carries.1 carrying)
      have queued := queueEntry_conserves h reservation bytes
      rw [endUnmarked_queued s l carrying reservation]
      refine queued.kept (l := l) (c := Classifier.empty) rfl ?_ rfl rfl rfl rfl
      rw [queueEntry_cls, setCls_cls, PerLine.get_set_same]
      rfl
    · rw [endUnmarked_carrying s l carrying good, dropReservation_giveBack]
      exact h.givenBack (l := l) (c := Classifier.empty) rfl rfl rfl rfl rfl
  · have free : (s.cls.get l).reservation = none := by simpa using mt carries.2 carrying
    obtain ⟨traffic, cls⟩ := endUnmarked_uncarried carrying v bytes
    refine (h.rests traffic cls).kept (l := l) (c := Classifier.empty) rfl ?_ rfl rfl rfl rfl
    rw [cls, classifier_cells_none free]
    rfl

theorem classifierEnd_conserves (h : s.Conserves)
    (carries : (s.cls.get l).state = .carrying ↔ (s.cls.get l).reservation.isSome = true) (v : EndVerdict)
    (bytes : List Byte) : (classifierEnd l v bytes s).Conserves := by
  cases marked : (s.cls.get l).resetMark with
  | true =>
    rw [classifierEnd_marked s l marked]
    exact h.givenBack (l := l) (c := Classifier.empty) rfl rfl rfl rfl rfl
  | false =>
    obtain ⟨traffic, cls, -⟩ := classifierEnd_unmarked s l marked v bytes
    rw [leaveIfJudging_eq] at traffic cls
    have ended := endUnmarked_conserves
      (s := { s with store := { s.store with phase := s.phaseEnding l } }) (l := l) h carries v bytes
    exact ended.rests ⟨traffic.pool, traffic.queues, traffic.pacer, traffic.tx⟩ cls

/-- R12, R73 to R75: the end of a frame whose inspection is complete. -/
theorem classifierEnd_framesInv (h : s.FramesInv) (v : EndVerdict) (bytes : List Byte) :
    (classifierEnd l v bytes (s.ended l (s.port.get l))).FramesInv := by
  obtain ⟨-, -, -, carries⟩ := h.follows l
  have reach := (ended_frame l s).trans (classifierEnd_frame l (s.ended l (s.port.get l)) v bytes)
  obtain ⟨port, cls, -⟩ := classifierEnd_slots l v bytes (s.ended l (s.port.get l))
  refine h.frame reach (follows_idle ?_ ?_) (h.adopts.ending ?_ reach.cls)
    (classifierEnd_conserves (s := s.ended l (s.port.get l)) h.conserves carries v bytes)
  · rw [port]
    simp [State.ended]
  · rw [cls, PerLine.get_set_same]
  · exact classifierEnd_phase _ l v bytes

theorem frameEnd_framesInv (h : s.FramesInv) (l : Line) : (frameEnd l s).FramesInv := by
  by_cases inspect : (s.port.get l).rx.state = .inspect
  · rw [frameEnd_inspect s l inspect]
    exact classifierEnd_framesInv (inspectionComplete_framesInv h inspect) _ _
  · rw [frameEnd_eq s l inspect]
    exact classifierEnd_framesInv h _ _

/-! ## The line -/

theorem delimit_framesInv (h : s.FramesInv) (up : (s.port.get l).line = .up) (sym : Symbol) :
    (delimit l sym s).FramesInv := by
  obtain ⟨idle, e | e⟩ | ⟨-, ⟨b, bad, e⟩ | e | e | e⟩ := delimit_cases s l sym <;> rw [e]
  · exact h
  · exact frameStart_framesInv h up idle
  · exact frameByte_framesInv h b bad
  · exact frameEnd_framesInv h l
  · exact frameAbort_framesInv h l
  · refine frameStart_framesInv (frameAbort_framesInv h l) ((frameAbort_frame l s).line.trans up) ?_
    rw [frameAbort_eq]
    simp [Reception.none]

/-- A port that moves its line state and counts, and is not in a frame unless it is UP. -/
theorem setPort_framesInv (h : s.FramesInv) (p : LinePort) (rx : p.rx = (s.port.get l).rx)
    (idle : p.line ≠ .up → p.rx.state = .idle) : (s.setPort l p).FramesInv := by
  refine ⟨fun q => ?_, h.adopts, h.conserves⟩
  obtain rfl | rfl := Line.eq_or_opposite l q
  · obtain ⟨idles, -, classified⟩ := h.follows q
    unfold State.Follows
    simp only [setPort_port, setPort_cls, PerLine.get_set_same, rx] at idle ⊢
    exact ⟨idles, idle, classified⟩
  · exact (h.follows _).of_eq (by simp) (by simp) rfl rfl

theorem lineClosed_framesInv (h : s.FramesInv) (l : Line) : (s.lineClosed l).FramesInv := by
  have aborted : (abortReception l s).FramesInv := by
    unfold abortReception
    split
    · exact h
    · exact frameAbort_framesInv h l
  refine setPort_framesInv aborted _ rfl fun _ => ?_
  have idle := lineClosed_idle s l
  rwa [State.lineClosed, setPort_port, PerLine.get_set_same] at idle

theorem lineDown_framesInv (h : s.FramesInv) (l : Line) : (lineDown l s).FramesInv := by
  rw [lineDown_eq]
  split
  · exact fullReset_framesInv _
  · exact (lineClosed_framesInv h l).egress (egressDown_reach _ l) egressDown_side

theorem lineUp_framesInv (h : s.FramesInv) (l : Line) : (lineUp l s).FramesInv := by
  have opened : (s.setPort l
      { s.port.get l with line := .up, alignCount := 16, errorCount := 0, cleanCount := 0 }).FramesInv :=
    setPort_framesInv h _ rfl fun down => absurd rfl down
  exact opened.egress (egressUp_reach _ l) egressUp_side

theorem receive_framesInv (h : s.FramesInv) (l : Line) (sym : Symbol) : (receive l sym s).FramesInv := by
  obtain ⟨-, idle, -⟩ := h.follows l
  obtain e | ⟨p, notUp, -, rx, e⟩ | e | ⟨-, e⟩ | ⟨up, e⟩ := receive_cases s l sym <;> rw [e]
  · exact h
  · exact setPort_framesInv h p rx fun _ => by rw [rx]; exact idle notUp
  · exact lineUp_framesInv h l
  · exact lineDown_framesInv h l
  · have line : ((s.port.get l).afterSymbol sym).line = .up := by rw [afterSymbol_line, up]
    have counted := setPort_framesInv h _ (afterSymbol_rx (s.port.get l) sym) fun down => absurd line down
    exact delimit_framesInv counted (by simpa using line) sym

/-! ## The TRAFFIC reset -/

/-- R13: a TRAFFIC reset leaves the states of the lines. -/
theorem trafficReset_line (s : State) (m : Line) : ((trafficReset s).port.get m).line = (s.port.get m).line := by
  have discards : ∀ (l : Line) (s : State), ((discardFrame l s).port.get m).line = (s.port.get m).line := fun l s => by
    show ((s.port.set l _).get m).line = _
    rw [PerLine.get_set]
    split
    · rename_i same
      rw [same]
    · rfl
  unfold trafficReset
  rw [(clearEgress_reach _ .s).port, (clearEgress_reach _ .n).port, setCapture_port, discards, discards]

theorem discarded_state (r : Reception) :
    (r.discarded.state = .idle ↔ r.state = .idle) ∧ r.discarded.state ≠ .header ∧ r.discarded.state ≠ .inspect := by
  unfold Reception.discarded
  dsimp only
  split <;> simp_all

theorem discardFrame_conserves (h : s.Conserves) (l : Line) : (discardFrame l s).Conserves :=
  h.kept (l := l) rfl rfl rfl rfl rfl rfl

/-- R13, R158: a TRAFFIC reset discards the frames in reception, which keep their cells until they end, and returns the
cells of the queued frames. -/
theorem trafficReset_framesInv (h : s.FramesInv) : (trafficReset s).FramesInv := by
  obtain ⟨rx, cls, -⟩ := trafficReset_frames s
  refine ⟨fun l => ?_, ?_, ?_⟩
  · obtain ⟨idles, down, -, carries⟩ := h.follows l
    obtain ⟨idle, header, inspect⟩ := discarded_state (s.port.get l).rx
    unfold State.Follows
    rw [rx, cls, trafficReset_line]
    exact ⟨idle.trans idles, fun notUp => idle.2 (down notUp),
      fun classified => absurd classified (by simp [header, inspect]), carries⟩
  · exact h.adopts.of_eq (fun m => by rw [trafficReset_store]; exact id) fun l => by rw [cls]; exact id
  · have discarded : ((discardFrame .s (discardFrame .n s)).setCapture CaptureStore.empty).Conserves :=
      discardFrame_conserves (discardFrame_conserves h.conserves .n) .s
    exact (discarded.egress (clearEgress_reach _ .n) clearEgress_side).egress (clearEgress_reach _ .s) clearEgress_side

/-! ## Every step -/

/-- Every act keeps the frames in step and their cells accounted for. -/
theorem act_framesInv (h : s.FramesInv) {t : State} (a : Act s t) : t.FramesInv := by
  cases a with
  | symbol l sym => exact receive_framesInv h l sym
  | decision p up free => exact h.egress (decideOffer_reach s p) (decideOffer_side free)
  | completion p x busy => exact completeLaunch_framesInv h p busy
  | residence p c => exact h.egress (checkHead_reach s p c) (checkHead_side c)
  | release p c due => exact h.egress (evaluateOffer_reach s p c) (evaluateOffer_side c)
  | ageing p c due => exact h.egress (setLane_reach s p c _) (.of_eq rfl rfl rfl)
  | cadence p due => exact h.rests (.of_egress (cadenceExpire_reach s p _) (cadenceExpire_traffic s p _))
  | take r executing inHand => exact (takeRequest_still s r).framesInv h
  | goOn hand executing inHand => exact (goOn_still s hand).framesInv h
  | command i f hand means executing inHand =>
    obtain rests | e | e := command_still s hand means
    · exact h.rests rests
    · rw [e]
      exact (flip_framesInv h).rests ((onRole_still _ _ _).trans (setAgent_still _ _))
    · rw [e]
      exact (trafficReset_framesInv h).rests (finishCommand_still _ hand _ _)
  | copy begun refilling => exact h.rests (copyDone_still s)
  | lease i editor due => exact h.rests (expireLease_still s i)

theorem leaves_framesInv {s t : State} (h : s.FramesInv) (k : Leaves s t) : t.FramesInv := by
  cases k with
  | still => exact h
  | low => exact powerOnFrom_framesInv _ _ s
  | rise straps wasLow => exact powerOnFrom_framesInv straps false s
  | act awake a => exact act_framesInv h a

theorem tick_framesInv {s : State} (h : s.FramesInv) : (tick s).FramesInv := by
  unfold tick
  split
  · exact h
  · exact h

/-- Settles O52: each act keeps receptions, classifiers and adoption in step and every cell free or held by one
frame. -/
theorem stepKeepsCellsConserved : Obligations.StepKeepsCellsConserved := fun _ _ frames stepped =>
  step_leads (fun _ _ _ h => h) (fun _ => tick_framesInv) (fun _ _ => leaves_framesInv) frames stepped

end

end Sys2Proof.Machine
end

section
/-! SUPPORT. The class queues and their heads through the acts of the egress side (R82, R84, R85, R97, R100, R102). -/

namespace Sys2Proof.Machine

/-! ## One class and all of them -/

/-- R82, R100, R102: class `c` of egress `p` holds QUEUED descriptors of its own, and its head is in step with its
queue. -/
def State.ClassStands (s : State) (p : Line) (c : TrafficClass) : Prop :=
  (∀ d ∈ s.queue p c, d.Fits p c ∧ d.state = .queued ∧ d.entry.isSome = true) ∧ s.HeadStands p c

/-- R82, R100, R102: so does every class of both lines. -/
def State.ClassesInv (s : State) : Prop := ∀ p c, s.ClassStands p c

section

variable {s t u : State} {p : Line} {c : TrafficClass}

theorem State.HeadStands.of_eq (h : s.HeadStands p c) (queue : t.queue p c = s.queue p c)
    (head : (t.lane p c).head = (s.lane p c).head) (release : (t.lane p c).release = (s.lane p c).release) :
    t.HeadStands p c := by
  unfold State.HeadStands at h ⊢
  rw [queue, head, release]
  exact h

theorem State.ClassStands.of_eq (h : s.ClassStands p c) (queue : t.queue p c = s.queue p c)
    (lane : t.lane p c = s.lane p c) : t.ClassStands p c := by
  obtain ⟨queued, heads⟩ := h
  exact ⟨by rw [queue]; exact queued, heads.of_eq queue (by rw [lane]) (by rw [lane])⟩

/-- A class whose frames are some of those it held, and whose head has been evaluated. -/
theorem State.ClassStands.fewer (h : s.ClassStands p c) (some : ∀ d ∈ t.queue p c, d ∈ s.queue p c)
    (heads : t.HeadStands p c) : t.ClassStands p c :=
  ⟨fun d inside => h.1 d (some d inside), heads⟩

namespace State.ClassesInv

theorem of_eq (h : s.ClassesInv) (queues : t.queues = s.queues) (pacer : t.pacer = s.pacer) : t.ClassesInv :=
  fun p c => (h p c).of_eq (by rw [State.queue, queues]; rfl) (by rw [State.lane, pacer]; rfl)

theorem rests (h : s.ClassesInv) (traffic : TrafficRests s t) : t.ClassesInv := h.of_eq traffic.queues traffic.pacer

/-- One class has moved. -/
theorem moved (h : s.ClassesInv) (own : t.ClassStands p c)
    (others : ∀ q k, (q, k) ≠ (p, c) → t.queue q k = s.queue q k ∧ t.lane q k = s.lane q k) : t.ClassesInv := by
  intro q k
  by_cases same : (q, k) = (p, c)
  · obtain ⟨rfl, rfl⟩ := Prod.mk.inj same
    exact own
  · obtain ⟨queue, lane⟩ := others q k same
    exact (h q k).of_eq queue lane

end State.ClassesInv

end

/-! ## Evaluations and new heads -/

section

variable {s : State} (h : s.ClassesInv) (p : Line) (c : TrafficClass)

include h

theorem recordHead_classes (b : Bool) : (recordHead p c b s).ClassesInv := by
  obtain ⟨_, _, shape⟩ := recordHead_shape s p c b
  have queue : ∀ q k, (recordHead p c b s).queue q k = s.queue q k := fun q k => by rw [shape]; rfl
  exact h.moved ((h p c).fewer (fun d => by rw [queue]; exact id) (recordHead_headStands s p c b)) fun q k other =>
    ⟨queue q k, (recordHead_lane s p c b).2 q k other⟩

theorem evaluateOffer_classes : (evaluateOffer p c s).ClassesInv := by
  have evaluated : (evaluate p c s).ClassesInv := recordHead_classes h p c _
  rw [evaluateOffer_eq]
  split
  · exact evaluated.rests (offer_traffic _ p)
  · exact evaluated

omit h in
/-- R84, R85, R100: a class has a new head; the other classes stand, and so does what it held before if that was its
own. -/
theorem newHead_classes (queued : ∀ d ∈ s.queue p c, d.Fits p c ∧ d.state = .queued ∧ d.entry.isSome = true)
    (others : ∀ q k, (q, k) ≠ (p, c) → s.ClassStands q k) : (newHead p c s).ClassesInv := by
  intro q k
  by_cases same : (q, k) = (p, c)
  · obtain ⟨rfl, rfl⟩ := Prod.mk.inj same
    refine ⟨fun d inside => queued d ?_, newHead_headStands s q k⟩
    rw [newHead_queue] at inside
    exact (List.dropWhile_sublist _).mem inside
  · exact (others q k same).of_eq (newHead_queue_ne s p c q k same) (newHead_lane_ne s p c q k same)

theorem checkHead_classes : (checkHead p c s).ClassesInv := by
  obtain ⟨e, -⟩ | ⟨e, -⟩ := checkHead_cases s p c <;> rw [e]
  · exact newHead_classes p c (h p c).1 fun q k _ => h q k
  · exact h

/-! ## Decisions -/

theorem launchHead_classes {d : Descriptor} {rest : List Descriptor} (queue : s.queue p c = d :: rest) :
    (launchHead p c d rest s).ClassesInv := by
  rw [launchHead_eq]
  refine newHead_classes p c ?_ fun q k other => (h q k).of_eq ?_ ?_
  · rw [launching_queue]
    exact fun x inside => (h p c).1 x (by rw [queue]; exact List.mem_cons_of_mem d inside)
  · exact queue_setQueue_ne s q p c k rest other
  · exact lane_setLane_ne (s.setQueue p c rest) q p c k _ other

theorem arbitrate_classes : (arbitrate p s).ClassesInv := by
  have passed : ∀ cs : List TrafficClass, (cs.foldl (State.passedOver p) s).ClassesInv := fun cs =>
    List.foldlRecOn cs (State.passedOver p) h fun u k c _ => by
      unfold State.passedOver
      split
      · exact k
      · exact recordHead_classes k p c _
  have decision := arbitrate_decision s p
  generalize arbitrate p s = t at decision
  cases decision with
  | quiet owed service closed => exact passed classesDown
  | cadence front t rest owed => exact (passed front).of_eq rfl rfl
  | service e rest queue => exact h.of_eq rfl rfl
  | head front c d rest queue =>
    refine launchHead_classes (passed (front ++ [c])) p c ?_
    obtain ⟨_, _, shape⟩ := passedOver_fold_shape p (front ++ [c]) s
    rw [shape]
    exact queue

theorem decideNow_classes : (decideNow p s).ClassesInv := by
  have decided := arbitrate_classes h p
  unfold decideNow
  dsimp only
  split
  · split
    · exact decided
    · exact decided.of_eq rfl rfl
  · exact h

theorem flipAct_classes (s0 : State) (rest : List FlipAct) (a : FlipAct) : (flipAct s0 rest a s).ClassesInv := by
  cases a with
  | queue p c => exact checkHead_classes h p c
  | head p c => exact evaluateOffer_classes h p c
  | cadence p => exact h.rests (cadenceFlip_traffic s p _)
  | arbiter p =>
    simp only [flipAct]
    split
    · exact h.rests (offer_traffic s p)
    · exact decideNow_classes h p

theorem flip_classes : (flip s).ClassesInv := by
  have stored : (flipStore s).ClassesInv := by
    rw [flipStore_eq]
    exact h
  exact flipActs_keeps State.ClassesInv s (fun rest a _ k => flipAct_classes k s rest a) _ _ stored

/-! ## Flushes, and line up -/

omit h in
/-- R89, R97: an emptied class has no head and no record. -/
theorem emptied_classStands (queue : s.queue p c = []) (lane : s.lane p c = PacerLane.empty) : s.ClassStands p c := by
  refine ⟨fun d inside => ?_, ?_⟩
  · rw [queue] at inside
    exact absurd inside (by simp)
  · unfold State.HeadStands
    rw [queue, lane]
    simp [PacerLane.empty]

omit h in
/-- The classes of line `p` have been emptied and those of the opposite line stand. -/
theorem emptied_classes {t : State} (h : s.ClassesInv) (queue : ∀ c, t.queue p c = [])
    (lane : ∀ c, t.lane p c = PacerLane.empty) (queues : t.queues.get p.opposite = s.queues.get p.opposite)
    (pacer : t.pacer.get p.opposite = s.pacer.get p.opposite) : t.ClassesInv := by
  intro q k
  obtain rfl | rfl := Line.eq_or_opposite p q
  · exact emptied_classStands q k (queue k) (lane k)
  · exact (h _ k).of_eq (by rw [State.queue, queues]; rfl) (by rw [State.lane, pacer]; rfl)

theorem clearEgress_classes : (clearEgress p s).ClassesInv := by
  have reach := flushLine_reach s p
  have flushed := emptied_classes p h (flushLine_queue s p) (flushLine_lane s p) reach.queues reach.pacer
  exact flushed.rests (cadenceTraffic_traffic _ p)

theorem egressDown_classes : (egressDown p s).ClassesInv := by
  have reach := egressDown_reach s p
  exact emptied_classes p h (egressDown_queue s p) (egressDown_lane s p) reach.queues reach.pacer

theorem egressUp_classes : (egressUp p s).ClassesInv := by
  have evaluated : (classesUp.foldl (fun s c => evaluateOffer p c s) s).ClassesInv :=
    List.foldlRecOn classesUp (fun s c => evaluateOffer p c s) h fun _ k c _ => evaluateOffer_classes k p c
  exact (evaluated.rests (setCadence_traffic _ p _)).rests (offer_traffic _ p)

end

end Sys2Proof.Machine
end

section
/-! SUPPORT. The class queues and the reservations through reception and every act, and the proof that every step keeps
them (R70, R73, R81, R82, R83). -/

namespace Sys2Proof.Machine

/-! ## The reservations of the classifiers -/

/-- R81: the descriptor that a classifier holds is RECEIVING and bound for the opposite line. -/
def State.ReservationsInv (s : State) : Prop :=
  ∀ l d, (s.cls.get l).reservation = some d → d.Fits l.opposite d.cls ∧ d.state = .receiving

/-- The queues of both lines, their heads and the reservations. -/
def State.TrafficInv (s : State) : Prop := s.ClassesInv ∧ s.ReservationsInv

theorem trafficInv_iff (s : State) : s.QueuesInv ∧ s.HeadsInv ↔ s.TrafficInv := by
  constructor
  · rintro ⟨⟨queued, reserved⟩, heads⟩
    exact ⟨fun p c => ⟨queued p c, heads p c⟩, reserved⟩
  · rintro ⟨classes, reserved⟩
    exact ⟨⟨fun p c => (classes p c).1, reserved⟩, fun p c => (classes p c).2⟩

section

variable {s t : State} {l : Line}

/-- The reservations while the classifier of line `l` keeps its own, has none, or holds a new one. -/
theorem State.ReservationsInv.set (h : s.ReservationsInv) {k : Classifier} (cls : t.cls = s.cls.set l k)
    (own : ∀ d, k.reservation = some d →
      (s.cls.get l).reservation = some d ∨ (d.Fits l.opposite d.cls ∧ d.state = .receiving)) : t.ReservationsInv := by
  intro q d holds
  rw [cls, PerLine.get_set] at holds
  split at holds
  · rename_i same
    rw [same]
    exact (own d holds).elim (h l d) id
  · exact h q d holds

namespace State.TrafficInv

theorem reservations (h : s.TrafficInv) : s.ReservationsInv := h.2

theorem classes (h : s.TrafficInv) : s.ClassesInv := h.1

theorem egress (h : s.TrafficInv) {p : Line} (reach : EgressReach p s t) (classes : t.ClassesInv) : t.TrafficInv :=
  ⟨classes, fun q d holds => h.reservations q d (by rwa [reach.cls] at holds)⟩

/-- A frame of line `l` has moved outside the queues. -/
theorem frame (h : s.TrafficInv) {k : Classifier} (cls : t.cls = s.cls.set l k)
    (own : ∀ d, k.reservation = some d →
      (s.cls.get l).reservation = some d ∨ (d.Fits l.opposite d.cls ∧ d.state = .receiving))
    (queues : t.queues = s.queues) (pacer : t.pacer = s.pacer) : t.TrafficInv :=
  ⟨h.classes.of_eq queues pacer, h.reservations.set cls own⟩

theorem rests (h : s.TrafficInv) (k : AgentRests s t) : t.TrafficInv :=
  h.frame (l := .n) (k := s.cls.get .n) (by rw [k.cls, PerLine.set_get]) (fun _ => .inl) k.traffic.queues
    k.traffic.pacer

end State.TrafficInv

end

theorem powerOnFrom_trafficInv (straps : BitVec 6) (low : Bool) (s : State) :
    ({ powerOnFrom straps s with resetLow := low } : State).TrafficInv := by
  refine ⟨fun p c => emptied_classStands p c (powerOn_queue straps p c) (powerOn_lane straps p c), fun l d holds => ?_⟩
  have empty : (({ powerOnFrom straps s with resetLow := low } : State).cls.get l) = Classifier.empty :=
    powerOn_cls straps l
  rw [empty] at holds
  exact absurd holds (by simp [Classifier.empty])

theorem AgentRestsOrResets.trafficInv {s t : State} (k : AgentRestsOrResets s t) (h : s.TrafficInv) : t.TrafficInv := by
  obtain rests | ⟨u, rfl⟩ := k
  · exact h.rests rests
  · exact powerOnFrom_trafficInv _ _ u

/-! ## Frames in reception -/

section

variable {s : State} (h : s.TrafficInv) (l : Line)

include h

theorem frameStart_trafficInv : (frameStart l s).TrafficInv := h.frame (l := l) rfl nofun rfl rfl

theorem frameAbort_trafficInv : (frameAbort l s).TrafficInv := by
  rw [frameAbort_eq]
  exact h.frame (l := l) (k := Classifier.empty) rfl nofun rfl rfl

theorem headerComplete_trafficInv : (headerComplete l s).TrafficInv := by
  have judged : ∀ f, (classifierHeader l f s).TrafficInv := fun f => by
    obtain ⟨r, k, drop, counts⟩ | kept := judgeHeader_cases (s.store.bank (s.cls.get l).bank).identity f
    · rw [classifierHeader_drop s l f drop counts]
      exact h.frame (l := l) rfl (fun _ => .inl) rfl rfl
    · rw [classifierHeader_kept s l f kept]
      exact h.frame (l := l) rfl (fun _ => .inl) rfl rfl
  exact judged _

/-- R70, R81: the cells granted at inspection complete make a RECEIVING descriptor. -/
theorem inspectionComplete_trafficInv : (inspectionComplete l s).TrafficInv := by
  obtain ⟨k, cls, inspected, -, -, queues, pacer, -⟩ := inspectionComplete_inspected s l
  refine h.frame cls (fun d holds => ?_) queues pacer
  cases inspected with
  | keeps state reservation _ _ => exact .inl (reservation ▸ holds)
  | granted d' state reservation fits receiving _ _ =>
    obtain rfl := Option.some.inj (reservation.symm.trans holds)
    exact .inr ⟨fits, receiving⟩

theorem frameByte_trafficInv (b : Byte) (bad : Bool) : (frameByte l b bad s).TrafficInv := by
  have pushed : (s.withFrameByte l b bad).TrafficInv := h
  rw [frameByte_eq]
  split
  · exact headerComplete_trafficInv pushed l
  · split
    · exact inspectionComplete_trafficInv pushed l
    · exact pushed

/-- R73, R83: a frame joins the queue of its own class and line, QUEUED and with its entry time. -/
theorem queueEntry_classes {d : Descriptor} (fits : d.Fits l.opposite d.cls) (bytes : List Byte) :
    (queueEntry l d bytes s).ClassesInv := by
  have classes := h.classes
  have others : ∀ q k, (q, k) ≠ (l.opposite, d.cls) → (s.joined l d bytes).ClassStands q k := fun q k other =>
    (classes q k).of_eq (joined_queue_ne s l d bytes q k other) rfl
  obtain ⟨queued, heads⟩ := classes l.opposite d.cls
  have joins : ∀ x ∈ (s.joined l d bytes).queue l.opposite d.cls,
      x.Fits l.opposite d.cls ∧ x.state = .queued ∧ x.entry.isSome = true := fun x inside => by
    rw [joined_queue] at inside
    obtain inside | last := List.mem_append.1 inside
    · exact queued x inside
    · obtain rfl := List.mem_singleton.1 last
      exact ⟨fits, rfl, rfl⟩
  rw [queueEntry_eq]
  split
  · exact newHead_classes _ _ joins others
  · rename_i waiting
    have stands : (s.joined l d bytes).HeadStands l.opposite d.cls := by
      obtain ⟨none, held⟩ := heads
      refine ⟨iff_of_false (fun empty => waiting (none.1 empty)) ?_, held⟩
      rw [joined_queue]
      simp
    intro q k
    by_cases own : (q, k) = (l.opposite, d.cls)
    · obtain ⟨rfl, rfl⟩ := Prod.mk.inj own
      exact ⟨joins, stands⟩
    · exact others q k own

theorem endUnmarked_trafficInv (v : EndVerdict) (bytes : List Byte) : (endUnmarked l v bytes s).TrafficInv := by
  by_cases carrying : (s.cls.get l).state = .carrying
  · by_cases good : v = .good
    · subst good
      cases reservation : (s.cls.get l).reservation with
      | none =>
        have stays : endUnmarked l .good bytes s = s := by
          unfold endUnmarked
          simp only [carrying, reservation]
        rw [stays]
        exact h
      | some d =>
        have given : (s.setCls l { s.cls.get l with reservation := none }).TrafficInv :=
          h.frame (l := l) rfl nofun rfl rfl
        rw [endUnmarked_queued s l carrying reservation]
        refine ⟨queueEntry_classes given l (h.reservations l d reservation).1 bytes, ?_⟩
        intro q x holds
        rw [queueEntry_cls] at holds
        exact given.reservations q x holds
    · rw [endUnmarked_carrying s l carrying good, dropReservation_giveBack]
      exact h
  · obtain ⟨traffic, cls⟩ := endUnmarked_uncarried carrying v bytes
    exact h.frame (l := l) (by rw [cls, PerLine.set_get]) (fun _ => .inl) traffic.queues traffic.pacer

theorem classifierEnd_trafficInv (v : EndVerdict) (bytes : List Byte) : (classifierEnd l v bytes s).TrafficInv := by
  cases marked : (s.cls.get l).resetMark with
  | true =>
    rw [classifierEnd_marked s l marked]
    exact h.frame (l := l) (k := Classifier.empty) rfl nofun rfl rfl
  | false =>
    obtain ⟨traffic, cls, -⟩ := classifierEnd_unmarked s l marked v bytes
    have left : (leaveIfJudging l s).TrafficInv := by
      rw [leaveIfJudging_eq]
      exact h
    exact (endUnmarked_trafficInv left l v bytes).frame cls nofun traffic.queues traffic.pacer

theorem frameEnd_trafficInv : (frameEnd l s).TrafficInv := by
  by_cases inspect : (s.port.get l).rx.state = .inspect
  · rw [frameEnd_inspect s l inspect]
    have inspected := inspectionComplete_trafficInv h l
    exact classifierEnd_trafficInv (s := (inspectionComplete l s).ended l _) inspected l _ _
  · rw [frameEnd_eq s l inspect]
    exact classifierEnd_trafficInv (s := s.ended l _) h l _ _

theorem delimit_trafficInv (sym : Symbol) : (delimit l sym s).TrafficInv := by
  obtain ⟨-, e | e⟩ | ⟨-, ⟨b, bad, e⟩ | e | e | e⟩ := delimit_cases s l sym <;> rw [e]
  · exact h
  · exact frameStart_trafficInv h l
  · exact frameByte_trafficInv h l b bad
  · exact frameEnd_trafficInv h l
  · exact frameAbort_trafficInv h l
  · exact frameStart_trafficInv (frameAbort_trafficInv h l) l

/-! ## The line -/

theorem lineUp_trafficInv : (lineUp l s).TrafficInv := by
  have opened : (s.setPort l
      { s.port.get l with line := .up, alignCount := 16, errorCount := 0, cleanCount := 0 }).TrafficInv := h
  exact opened.egress (egressUp_reach _ l) (egressUp_classes opened.classes l)

theorem lineDown_trafficInv : (lineDown l s).TrafficInv := by
  have closed : (s.lineClosed l).TrafficInv := by
    have aborted : (abortReception l s).TrafficInv := by
      unfold abortReception
      split
      · exact h
      · exact frameAbort_trafficInv h l
    exact aborted
  rw [lineDown_eq]
  split
  · exact powerOnFrom_trafficInv _ _ _
  · exact closed.egress (egressDown_reach _ l) (egressDown_classes closed.classes l)

theorem receive_trafficInv (sym : Symbol) : (receive l sym s).TrafficInv := by
  have ported : ∀ p, (s.setPort l p).TrafficInv := fun _ => h
  obtain e | ⟨p, -, -, -, e⟩ | e | ⟨-, e⟩ | ⟨-, e⟩ := receive_cases s l sym <;> rw [e]
  · exact h
  · exact ported p
  · exact lineUp_trafficInv h l
  · exact lineDown_trafficInv h l
  · exact delimit_trafficInv (ported _) l sym

/-! ## Every step -/

theorem completeLaunch_trafficInv (p : Line) (x : Launch) : (completeLaunch p x s).TrafficInv := by
  cases awaited : x.source.awaited with
  | true =>
    unfold completeLaunch
    simp only [awaited, if_true]
    exact powerOnFrom_trafficInv _ _ _
  | false =>
    refine h.egress (completeLaunch_reach s p x awaited) ?_
    have accounted : (account p x.source (s.setTx p { launch := none, close := .ended })).ClassesInv := by
      cases x.source <;> exact h.classes
    unfold completeLaunch
    simp only [awaited, Bool.false_eq_true, if_false]
    exact accounted.rests (offer_traffic _ p)

omit l in
/-- R158: the queued frames leave, and the frames in reception keep their descriptors until they end. -/
theorem trafficReset_trafficInv : (trafficReset s).TrafficInv := by
  have discarded : ∀ {s : State} (l : Line), s.TrafficInv → (discardFrame l s).TrafficInv := fun l h =>
    h.frame (l := l) rfl (fun _ => .inl) rfl rfl
  have emptied : ((discardFrame .s (discardFrame .n s)).setCapture CaptureStore.empty).TrafficInv :=
    discarded .s (discarded .n h)
  have north := emptied.egress (clearEgress_reach _ .n) (clearEgress_classes emptied.classes .n)
  exact north.egress (clearEgress_reach _ .s) (clearEgress_classes north.classes .s)

omit l in
/-- R96: an entry that ages leaves the history, and the head stands. -/
theorem ageing_classes (p : Line) (c : TrafficClass) (history : List Time) :
    (s.setLane p c { s.lane p c with history := history }).ClassesInv := by
  refine h.classes.moved (p := p) (c := c) ⟨(h.classes p c).1, (h.classes p c).2.of_eq rfl ?_ ?_⟩ fun q k other =>
    ⟨rfl, lane_setLane_ne s q p c k _ other⟩
  · rw [lane_setLane_same]
  · rw [lane_setLane_same]

omit l in
/-- Every act keeps the queues their own frames and their heads in step. -/
theorem act_trafficInv {t : State} (a : Act s t) : t.TrafficInv := by
  have classes := h.classes
  cases a with
  | symbol l sym => exact receive_trafficInv h l sym
  | decision p up free =>
    exact h.egress (decideOffer_reach s p) (State.ClassesInv.of_eq (arbitrate_classes classes p) rfl rfl)
  | completion p x busy => exact completeLaunch_trafficInv h p x
  | residence p c => exact h.egress (checkHead_reach s p c) (checkHead_classes classes p c)
  | release p c due => exact h.egress (evaluateOffer_reach s p c) (evaluateOffer_classes classes p c)
  | ageing p c due => exact h.egress (setLane_reach s p c _) (ageing_classes h p c _)
  | cadence p due => exact h.rests (.of_egress (cadenceExpire_reach s p _) (cadenceExpire_traffic s p _))
  | take r executing inHand => exact (takeRequest_still s r).trafficInv h
  | goOn hand executing inHand => exact (goOn_still s hand).trafficInv h
  | command i f hand means executing inHand =>
    obtain rests | e | e := command_still s hand means
    · exact h.rests rests
    · have flipped : (flip s).TrafficInv := by
        refine ⟨flip_classes classes, fun l d holds => h.reservations l d ?_⟩
        rwa [flip_shape] at holds
      rw [e]
      exact flipped.rests ((onRole_still _ _ _).trans (setAgent_still _ _))
    · rw [e]
      exact (trafficReset_trafficInv h).rests (finishCommand_still _ hand _ _)
  | copy begun refilling => exact h.rests (copyDone_still s)
  | lease i editor due => exact h.rests (expireLease_still s i)

end

theorem leaves_trafficInv {s t : State} (h : s.TrafficInv) (k : Leaves s t) : t.TrafficInv := by
  cases k with
  | still => exact h
  | low => exact powerOnFrom_trafficInv _ _ s
  | rise straps wasLow => exact powerOnFrom_trafficInv straps false s
  | act awake a => exact act_trafficInv h a

theorem tick_trafficInv {s : State} (h : s.TrafficInv) : (tick s).TrafficInv := by
  unfold tick
  split
  · exact h
  · exact h

/-- Settles O59: each act keeps the frames of each queue and reservation its own, and each head in step with its
queue. -/
theorem stepKeepsQueuesAndHeads : Obligations.StepKeepsQueuesAndHeads := by
  intro s t inv stepped
  rw [trafficInv_iff] at inv ⊢
  exact step_leads (fun _ _ _ h => h) (fun _ => tick_trafficInv) (fun _ _ => leaves_trafficInv) inv stepped

end Sys2Proof.Machine
end

section
/-! SUPPORT. The eligibility test read as a bound on the k-th newest launch, and from it the window release as the
earliest allowed time (R98, R102). -/

namespace Sys2Proof.Machine

/-! ## The k-th newest entry -/

/-- In a list ordered by `f`, more than `k` items lie below a bound exactly when the one at place `k` does. -/
theorem lt_countP_iff {α : Type} (f : α → Nat) (m : Nat) {l : List α} (ordered : l.Pairwise (f · ≤ f ·)) (k : Nat) :
    k < l.countP (fun x => f x < m) ↔ ∃ x, l[k]? = some x ∧ f x < m := by
  induction l generalizing k with
  | nil => simp
  | cons a l ih =>
    obtain ⟨least, ordered⟩ := List.pairwise_cons.1 ordered
    by_cases below : f a < m
    · rw [List.countP_cons_of_pos (by simpa using below)]
      cases k with
      | zero => simp [below]
      | succ k => simpa using ih ordered k
    · have none : (a :: l).countP (fun x => f x < m) = 0 := by
        refine List.countP_eq_zero.2 fun x inside => ?_
        obtain rfl | later := List.mem_cons.1 inside
        · simpa using below
        · have := least x later
          simp only [decide_eq_true_eq]
          omega
      rw [none]
      refine iff_of_false (Nat.not_lt_zero k) ?_
      rintro ⟨x, at_k, under⟩
      obtain rfl | later := List.mem_cons.1 (List.mem_of_getElem? at_k)
      · exact below under
      · exact below (Nat.lt_of_le_of_lt (least x later) under)

/-! ## Time passing -/

/-- An age grows with the time, short of the wrap of the timebase. -/
theorem age_later {now t : Time} {j : Nat} (young : age now t + j < 2 ^ 32) :
    age (now + BitVec.ofNat 32 j) t = age now t + j := by
  unfold age at *
  bv_omega

theorem age_self_later {now : Time} {j : Nat} (soon : j < 2 ^ 32) : age (now + BitVec.ofNat 32 j) now = j := by
  have start : age now now = 0 := by simp [age]
  rw [age_later (by omega), start, Nat.zero_add]

section

variable {now : Time} {h : List Time}

/-- R98, R102: a tier allows the head from its wait on, and not before. -/
theorem tierAllows_later_iff (ordered : h.Pairwise (fun a b => age now b ≤ age now a))
    (recent : ∀ t ∈ h, age now t ≤ 1000001) (k : Nat) {span j : Nat} (soon : j ≤ 1000000) :
    tierAllows (now + BitVec.ofNat 32 j) h k span = true ↔ tierWait now h k span ≤ j := by
  have newest : h.reverse.Pairwise (age now · ≤ age now ·) := List.pairwise_reverse.2 ordered
  have count : ∀ i ≤ 1000000, younger (now + BitVec.ofNat 32 i) h span =
      h.reverse.countP fun t => age now t < span - i := fun i bound => by
    rw [List.countP_reverse]
    refine List.countP_congr fun t inside => ?_
    have := recent t inside
    rw [age_later (by omega)]
    simp only [decide_eq_true_eq]
    omega
  have blocks : ∀ i ≤ 1000000, ¬ tierAllows (now + BitVec.ofNat 32 i) h k span = true ↔
      k ≠ 0 ∧ ∃ t, h.reverse[k - 1]? = some t ∧ age now t < span - i := fun i bound => by
    simp only [tierAllows, count i bound, Bool.or_eq_true, beq_iff_eq, decide_eq_true_eq, not_or, Nat.not_lt]
    refine and_congr_right fun on => ?_
    rw [← lt_countP_iff (age now) (span - i) newest (k - 1)]
    omega
  have blocksNow := blocks 0 (Nat.zero_le _)
  rw [show now + BitVec.ofNat 32 0 = now by simp, Nat.sub_zero] at blocksNow
  refine not_iff_not.1 ((blocks j soon).trans ?_)
  unfold tierWait
  split
  · rename_i allowed
    refine iff_of_false (fun ⟨on, t, at_k, young⟩ => ?_) (by omega)
    exact blocksNow.2 ⟨on, t, at_k, by omega⟩ allowed
  · rename_i blocked
    obtain ⟨on, t, at_k, young⟩ := blocksNow.1 blocked
    rw [at_k]
    dsimp only
    refine ⟨fun ⟨_, x, same, later⟩ => ?_, fun waits => ⟨on, t, rfl, by omega⟩⟩
    obtain rfl := Option.some.inj same
    omega

theorem tierWait_le (k span : Nat) : tierWait now h k span ≤ span := by
  unfold tierWait
  split
  · exact Nat.zero_le _
  · split
    · exact Nat.sub_le _ _
    · exact Nat.zero_le _

end

/-- R102: how long the window still blocks: the longer wait of its two tiers. -/
def windowWait (now : Time) (h : List Time) (pol : ClassPol) : Nat :=
  max (tierWait now h pol.ks.toNat pol.ws.toNat) (tierWait now h pol.kl.toNat pol.wl.toNat)

theorem releaseTime_eq (now : Time) (h : List Time) (pol : ClassPol) :
    releaseTime now h pol = now + BitVec.ofNat 32 (windowWait now h pol) := rfl

/-- R32: the spans of a policy in range. -/
theorem ClassPol.ok_spans {pol : ClassPol} (ok : pol.ok = true) :
    pol.ws.toNat ≤ 1000000 ∧ pol.wl.toNat ≤ 1000000 := by
  simp only [ClassPol.ok, Bool.and_eq_true, decide_eq_true_eq] at ok
  omega

/-- R98, R102: the window allows the head from its wait on, and not before. -/
theorem windowAllows_later_iff {now : Time} {h : List Time} (ordered : h.Pairwise (fun a b => age now b ≤ age now a))
    (recent : ∀ t ∈ h, age now t ≤ 1000001) (pol : ClassPol) {j : Nat} (soon : j ≤ 1000000) :
    windowAllows (now + BitVec.ofNat 32 j) h pol = true ↔ windowWait now h pol ≤ j := by
  rw [windowAllows, Bool.and_eq_true, tierAllows_later_iff ordered recent _ soon,
    tierAllows_later_iff ordered recent _ soon, windowWait, Nat.max_le]

/-- Settles O26: the window allows the head exactly from its wait on, and the release is set at the end of the wait. -/
theorem releaseIsEarliestAllowedTime : Obligations.ReleaseIsEarliestAllowedTime := by
  intro now h pol ok ordered recent blocked
  have opens := fun j soon => windowAllows_later_iff ordered recent pol (j := j) soon
  obtain ⟨short, long⟩ := pol.ok_spans ok
  have bounded : windowWait now h pol ≤ 1000000 :=
    Nat.max_le.2 ⟨(tierWait_le _ _).trans short, (tierWait_le _ _).trans long⟩
  have waits : 0 < windowWait now h pol := by
    have closed := (opens 0 (Nat.zero_le _)).not
    rw [show now + BitVec.ofNat 32 0 = now by simp, blocked] at closed
    simpa [Nat.pos_iff_ne_zero] using closed
  rw [releaseTime_eq, age_self_later (by omega)]
  refine ⟨(opens _ bounded).2 (Nat.le_refl _), waits, fun k earlier => Bool.eq_false_iff.2 fun allowed => ?_⟩
  have := (opens k (by omega)).1 allowed
  omega

end Sys2Proof.Machine
end

section
/-! SUPPORT. The timed events of the pacers: a window release with a held head, and the ageing of a history (R96,
R103). -/

namespace Sys2Proof.Machine

/-! ## The window release -/

theorem exec_windowRelease {s : State} {p : Line} {c : TrafficClass} (awake : s.resetLow = false)
    (due : (s.lane p c).release = some s.timebase) :
    exec (.windowRelease p c) s = .next (evaluateOffer p c s) :=
  congrArg Host.Outcome.next ((awake_eq s _ awake).trans (if_pos due))

/-- R100: a head found allowed is ELIGIBLE, and offers a decision. -/
theorem evaluateOffer_allowed {s : State} {p : Line} {c : TrafficClass} (queued : s.queue p c ≠ [])
    (allowed : s.Allows p c = true) :
    evaluateOffer p c s = offer p (s.setLane p c { s.lane p c with head := .eligible, release := none }) := by
  rw [evaluateOffer_eq, evaluate_eq, allowed, recordHead_allowed s p c queued, lane_setLane_same, if_pos rfl]

/-- R101, R102: a held head found held again has its release set afresh, and is neither counted nor offered. -/
theorem evaluateOffer_heldAgain {s : State} {p : Line} {c : TrafficClass} (queued : s.queue p c ≠ [])
    (held : (s.lane p c).head = .held) (closed : s.Allows p c = false) :
    evaluateOffer p c s = s.setLane p c
      { s.lane p c with release := some (releaseTime s.timebase (s.lane p c).history (s.classPol p c)) } := by
  have recorded : evaluate p c s = s.setLane p c
      { s.lane p c with release := some (releaseTime s.timebase (s.lane p c).history (s.classPol p c)) } := by
    rw [evaluate_eq, closed, recordHead_held s p c queued, if_pos held, ← held]
    rfl
  rw [evaluateOffer_eq, recorded, lane_setLane_same, if_neg (by simp [held])]

/-! ## The ageing of a history -/

theorem exec_ageingEvent {s : State} {p : Line} {c : TrafficClass} (awake : s.resetLow = false)
    (due : ageingDue (s.lane p c).history = some s.timebase) :
    exec (.ageingEvent p c) s =
      .next (s.setLane p c { s.lane p c with history := (s.lane p c).history.drop 1 }) :=
  congrArg Host.Outcome.next ((awake_eq s _ awake).trans (if_pos due))

/-- R98: a tier does not count an entry whose age has reached its span. -/
theorem tierAllows_cons_old {now t : Time} {span : Nat} (old : span ≤ age now t) (rest : List Time) (k : Nat) :
    tierAllows now (t :: rest) k span = tierAllows now rest k span := by
  have uncounted : younger now (t :: rest) span = younger now rest span :=
    List.countP_cons_of_neg (by simpa using old)
  unfold tierAllows
  rw [uncounted]

/-- R96: under a policy in range, the entry that ages out takes no part in the test. -/
theorem windowAllows_cons_aged {now oldest : Time} (aged : oldest + 1000001#32 = now) (rest : List Time)
    {pol : ClassPol} (ok : pol.ok = true) : windowAllows now (oldest :: rest) pol = windowAllows now rest pol := by
  have old : age now oldest = 1000001 := by
    rw [← aged]
    exact age_self_later (by omega)
  obtain ⟨short, long⟩ := pol.ok_spans ok
  unfold windowAllows
  rw [tierAllows_cons_old (by omega), tierAllows_cons_old (by omega)]

/-- Settles O25: a due release evaluates the held head, and a due ageing event drops an entry that no tier counts. -/
theorem pacerEventsReleaseAndAge : Obligations.PacerEventsReleaseAndAge := by
  refine ⟨fun p c s awake due queued held => ?_, fun p c oldest rest s awake history aged => ?_⟩
  · rw [exec_windowRelease awake due]
    refine ⟨fun allowed => ?_, fun closed => congrArg _ (evaluateOffer_heldAgain queued held closed)⟩
    rw [evaluateOffer_allowed queued allowed, offer_eq]
    rfl
  · have due : ageingDue (s.lane p c).history = some s.timebase := by
      rw [history, ← aged]
      rfl
    rw [exec_ageingEvent awake due, history]
    exact ⟨rfl, rfl, fun pol ok => windowAllows_cons_aged aged rest ok⟩

end Sys2Proof.Machine
end

section
/-! SUPPORT. Which acts can start a launch on a transmitter that is free: an arbiter's decision and a flip, and no
other (R15 to R18, R109). -/

namespace Sys2Proof.Machine

/-- From `s` to `t` no launch has started on a transmitter that was free. -/
def StartsNone (s t : State) : Prop := ∀ p, (s.tx.get p).launch = none → (t.tx.get p).launch = none

namespace StartsNone

variable {s t : State}

theorem of_tx (same : t.tx = s.tx) : StartsNone s t := fun _ idle => by rw [same]; exact idle

/-- One transmitter ends its launch, or has none. -/
theorem ends {p : Line} {x : Transmitter} (idle : x.launch = none) (tx : t.tx = s.tx.set p x) : StartsNone s t :=
  fun q free => by
    rw [tx, PerLine.get_set]
    split
    · exact idle
    · exact free

/-- R18: a reset cuts the launches of both lines. -/
theorem reset (s : State) (straps : BitVec 6) (u : State) (low : Bool) :
    StartsNone s { powerOnFrom straps u with resetLow := low } := fun p _ => by cases p <;> exact cut_launch _

theorem of_agent (h : AgentRestsOrResets s t) : StartsNone s t := by
  obtain rests | ⟨u, rfl⟩ := h
  · exact .of_tx rests.traffic.tx
  · exact .reset s u.straps u u.resetLow

end StartsNone

section

variable (s : State) (p : Line)

theorem evaluateOffer_tx (c : TrafficClass) : (evaluateOffer p c s).tx = s.tx := by
  obtain ⟨_, _, _, shape⟩ := evaluateOffer_shape s p c
  rw [shape]

theorem checkHead_tx (c : TrafficClass) : (checkHead p c s).tx = s.tx := by
  obtain ⟨_, _, _, _, _, shape⟩ := checkHead_shape s p c
  rw [shape]

theorem egressUp_tx : (egressUp p s).tx = s.tx := by
  have evaluated : (classesUp.foldl (fun s c => evaluateOffer p c s) s).tx = s.tx :=
    List.foldlRecOn classesUp (fun s c => evaluateOffer p c s) (motive := fun u => u.tx = s.tx) rfl
      fun u same c _ => (evaluateOffer_tx u p c).trans same
  exact (offer_traffic _ p).tx.trans evaluated

theorem clearEgress_tx : (clearEgress p s).tx = s.tx := by
  obtain ⟨_, _, _, _, shape⟩ := flushLine_shape s p
  refine (cadenceTraffic_traffic (flushLine p s) p).tx.trans ?_
  rw [shape]

theorem trafficReset_tx : (trafficReset s).tx = s.tx := (clearEgress_tx _ .s).trans (clearEgress_tx _ .n)

/-- R6, R18: line down cuts the launch of its line. -/
theorem lineDown_startsNone (l : Line) : StartsNone s (lineDown l s) := by
  rw [lineDown_eq]
  split
  · exact .reset s _ _ _
  · obtain ⟨_, _, _, _, _, closed⟩ := lineClosed_shape s l
    obtain ⟨_, _, _, _, down⟩ := egressDown_shape (s.lineClosed l) l
    refine .ends (p := l) (cut_launch (s.tx.get l)) ?_
    rw [down, closed]

theorem receive_startsNone (l : Line) (sym : Symbol) : StartsNone s (receive l sym s) := by
  obtain e | ⟨_, -, -, -, e⟩ | e | ⟨-, e⟩ | ⟨-, e⟩ := receive_cases s l sym <;> rw [e]
  · exact .of_tx rfl
  · exact .of_tx rfl
  · exact .of_tx (egressUp_tx _ l)
  · exact lineDown_startsNone s l
  · exact .of_tx (delimit_frame l _ sym).tx

/-- R17: a completed launch leaves its transmitter free. -/
theorem completeLaunch_startsNone (x : Launch) : StartsNone s (completeLaunch p x s) := by
  have ended : StartsNone s (offer p (account p x.source (s.setTx p { launch := none, close := .ended }))) := by
    refine .ends (p := p) (x := { launch := none, close := .ended }) rfl ((offer_traffic _ p).tx.trans ?_)
    rw [account_shape]
    rfl
  unfold completeLaunch
  dsimp only
  split
  · exact .reset s _ _ _
  · exact ended

/-- R109: an act starts no launch on a free transmitter, or it is a decision of an arbiter, or a flip. -/
theorem act_launches {t : State} (a : Act s t) :
    StartsNone s t ∨ (∃ q, t = decideOffer q s) ∨ ∃ h, t = waitForCopy h (flip s) := by
  cases a with
  | symbol l sym => exact .inl (receive_startsNone s l sym)
  | decision q up free => exact .inr (.inl ⟨q, rfl⟩)
  | completion q x busy => exact .inl (completeLaunch_startsNone s q x)
  | residence q c => exact .inl (.of_tx (checkHead_tx s q c))
  | release q c due => exact .inl (.of_tx (evaluateOffer_tx s q c))
  | ageing q c due => exact .inl (.of_tx rfl)
  | cadence q due => exact .inl (.of_tx (cadenceExpire_traffic s q _).tx)
  | take r executing inHand => exact .inl (.of_agent (takeRequest_still s r))
  | goOn hand executing inHand => exact .inl (.of_agent (goOn_still s hand))
  | command i f hand means executing inHand =>
    obtain rests | flips | resets := command_still s hand means
    · exact .inl (.of_tx rests.traffic.tx)
    · exact .inr (.inr ⟨hand, flips⟩)
    · rw [resets]
      exact .inl (.of_tx ((finishCommand_still _ hand _ _).traffic.tx.trans (trafficReset_tx s)))
  | copy begun refilling => exact .inl (.of_tx (copyDone_still s).traffic.tx)
  | lease i editor due => exact .inl (.of_tx (expireLease_still s i).traffic.tx)

theorem leaves_launches {t : State} (k : Leaves s t) :
    StartsNone s t ∨ (∃ q, t = decideOffer q s) ∨ ∃ h, t = waitForCopy h (flip s) := by
  cases k with
  | still => exact .inl (.of_tx rfl)
  | low => exact .inl (.reset s _ s true)
  | rise straps wasLow => exact .inl (.reset s straps s false)
  | act awake a => exact act_launches s a

end

/-- R39: the generation is counted on by a COMMIT alone. -/
theorem commit_of_nextGeneration {i : Instr} {s t : State} (next : exec i s = .next t)
    (advanced : t.store.generation = nextGeneration s.store.generation) : ∃ ops, i = .commit ops := by
  obtain same | ⟨commit, -⟩ | ⟨zero, -⟩ := (exec_move s next).generation
  · have moves : nextGeneration s.store.generation ≠ s.store.generation := by
      unfold nextGeneration
      split
      · rename_i last
        rw [last]
        decide
      · bv_omega
    exact absurd (advanced.symm.trans same) moves
  · exact commit
  · exact absurd (advanced.symm.trans zero) (nextGeneration_ne_zero _)

theorem flip_store (s : State) : (flip s).store = (flipStore s).store := by rw [flip_shape]

end Sys2Proof.Machine
end

section
/-! SUPPORT. The window law (R99): a class head is launched only while both tiers of its window are open, by a decision
of the arbiter, and through the acts of a flip in whatever order they come (R87, R105). -/

namespace Sys2Proof.Machine

/-! ## The window test in its two tiers -/

theorem tierAllows_iff (now : Time) (h : List Time) (k : Byte) (span : Nat) :
    tierAllows now h k.toNat span = true ↔
      k = 0 ∨ (h.countP fun t => (now - t).toNat < span) < k.toNat := by
  have off : k.toNat = 0 ↔ k = 0 := by bv_omega
  rw [tierAllows, Bool.or_eq_true, beq_iff_eq, decide_eq_true_iff, off]
  rfl

theorem windowAllows_iff (now : Time) (h : List Time) (pol : ClassPol) :
    windowAllows now h pol = true ↔
      (pol.ks = 0 ∨ (h.countP fun t => (now - t).toNat < pol.ws.toNat) < pol.ks.toNat) ∧
        (pol.kl = 0 ∨ (h.countP fun t => (now - t).toNat < pol.wl.toNat) < pol.kl.toNat) := by
  rw [windowAllows, Bool.and_eq_true, tierAllows_iff, tierAllows_iff]

/-! ## Open heads -/

/-- R84, R99: the frame `d`, as launched, is the head of class queue `c` of egress `p` once the frames `late` have left
it, and the window of the class is open. -/
def State.OpenBehind (s : State) (p : Line) (c : TrafficClass) (late : List Descriptor) (d : Descriptor) : Prop :=
  (∃ d0 rest, s.queue p c = late ++ d0 :: rest ∧ d = { d0 with state := .launching }) ∧ s.Allows p c = true

/-- From `s` to `t` the tables, the time, the class queues and the launch histories stand. -/
structure WindowsRest (s t : State) : Prop where
  stands : Stands s t
  queues : t.queues = s.queues
  history : ∀ p c, (t.lane p c).history = (s.lane p c).history

namespace WindowsRest

variable {s t u : State}

theorem refl (s : State) : WindowsRest s s := ⟨.refl s, rfl, fun _ _ => rfl⟩

theorem trans (h : WindowsRest s t) (k : WindowsRest t u) : WindowsRest s u :=
  ⟨h.stands.trans k.stands, k.queues.trans h.queues, fun p c => (k.history p c).trans (h.history p c)⟩

/-- A head that is open now was open before. -/
theorem openBehind (h : WindowsRest s t) {p : Line} {c : TrafficClass} {late : List Descriptor} {d : Descriptor}
    (opens : t.OpenBehind p c late d) : s.OpenBehind p c late d := by
  obtain ⟨head, allowed⟩ := opens
  unfold State.queue at head
  rw [h.queues] at head
  exact ⟨head, (h.stands.allows (h.history p c)).symm.trans allowed⟩

end WindowsRest

theorem recordHead_windows (s : State) (p : Line) (c : TrafficClass) (b : Bool) :
    WindowsRest s (recordHead p c b s) := by
  obtain ⟨own, others⟩ := recordHead_lane s p c b
  obtain ⟨_, _, shape⟩ := recordHead_shape s p c b
  refine ⟨.of_reach (recordHead_reach s p c b), by rw [shape], fun q k => ?_⟩
  by_cases same : (q, k) = (p, c)
  · obtain ⟨rfl, rfl⟩ := Prod.mk.inj same
    rw [own]
  · rw [others q k same]

theorem evaluateAtDecision_windows (s : State) (p : Line) (c : TrafficClass) :
    WindowsRest s (evaluateAtDecision p c s) := recordHead_windows s p c _

/-! ## A decision of the arbiter -/

/-- What a decision of line `p` leaves of a free transmitter: it is still free, with every queue and history as it was,
or a launch has started, and a class frame among launches was an open head. -/
def Decides (p : Line) (s t : State) : Prop :=
  (WindowsRest s t ∧ (t.tx.get p).launch = none) ∨
    ∃ x, (t.tx.get p).launch = some x ∧ ∀ d, x.source = .passed d → ∃ c, s.OpenBehind p c [] d

theorem Decides.after {p : Line} {s t u : State} (h : WindowsRest s t) (k : Decides p t u) : Decides p s u := by
  obtain ⟨rests, idle⟩ | ⟨x, started, opens⟩ := k
  · exact .inl ⟨h.trans rests, idle⟩
  · exact .inr ⟨x, started, fun d passed => (opens d passed).imp fun c => h.openBehind⟩

theorem startLaunch_decides {p : Line} {s u : State} (bytes : List Byte) {src : LaunchSource}
    (other : ∀ d, src ≠ .passed d) : Decides p s (startLaunch p bytes src u) :=
  .inr ⟨_, congrArg Transmitter.launch (PerLine.get_set_same _ _ _), fun d passed => absurd passed (other d)⟩

/-- R99, R110: the scan launches a head that its own evaluation finds open, or a cadence frame, or nothing. -/
theorem scanHeads_decides (p : Line) (cs : List TrafficClass) : ∀ s : State, (s.tx.get p).launch = none →
    Decides p s (scanHeads p cs s) := by
  induction cs with
  | nil =>
    intro s idle
    rw [scanHeads]
    split
    · exact startLaunch_decides _ (by simp)
    · exact .inl ⟨.refl s, idle⟩
  | cons c cs ih =>
    intro s idle
    cases queue : s.queue p c with
    | nil =>
      rw [scanHeads_empty s p c cs queue]
      exact ih s idle
    | cons d rest =>
      have rests := evaluateAtDecision_windows s p c
      cases found : s.AllowsDecision p c with
      | false =>
        rw [scanHeads_closed s p c cs (by simp [queue]) found]
        refine .after rests (ih _ ?_)
        obtain ⟨_, _, shape⟩ := recordHead_shape s p c (s.openAtDecision p c)
        rw [evaluateAtDecision, shape]
        exact idle
      | true =>
        rw [scanHeads_open s p c cs queue found, launchHead_eq]
        have allowed := openAtDecision_allows s p c ((openAtDecision_eq s p c).trans found)
        have started : ((newHead p c ((evaluateAtDecision p c s).launching p c d rest)).tx.get p).launch = some
            { start := (evaluateAtDecision p c s).timebase, bytes := passedBytes d
              source := .passed { d with state := .launching } } := by
          rw [newHead_tx]
          exact congrArg Transmitter.launch (PerLine.get_set_same _ _ _)
        exact .inr ⟨_, started, fun d' passed =>
          ⟨c, ⟨d, rest, queue, (LaunchSource.passed.inj passed).symm⟩, allowed⟩⟩

theorem arbitrate_decides {p : Line} {s : State} (idle : (s.tx.get p).launch = none) : Decides p s (arbitrate p s) := by
  unfold arbitrate
  split
  · exact startLaunch_decides _ (by simp)
  · split
    · exact startLaunch_decides _ (by simp)
    · exact scanHeads_decides p _ s idle

/-! ## The flip -/

/-- In the course of a flip from `s`: while the transmitter of line `p` is free the launch histories stand and only late
heads have left the queues, and a class frame launched on it was, behind such heads, an open head. -/
structure LineFlipped (s : State) (p : Line) (u : State) : Prop where
  stands : Stands s u
  free : (u.tx.get p).launch = none → ∀ c, (u.lane p c).history = (s.lane p c).history ∧
    ∃ late, s.queue p c = late ++ u.queue p c ∧ ∀ e ∈ late, s.late p c e = true
  launched : ∀ x d, (u.tx.get p).launch = some x → x.source = .passed d →
    ∃ c late, s.OpenBehind p c late d ∧ ∀ e ∈ late, s.late p c e = true

namespace LineFlipped

variable {s u v : State} {p : Line}

theorem start (idle : (s.tx.get p).launch = none) : LineFlipped s p s where
  stands := .refl s
  free _ c := ⟨rfl, [], rfl, by simp⟩
  launched x d busy := absurd (idle.symm.trans busy) (by simp)

/-- An act that starts no launch on the line, and takes only late heads from its queues. -/
theorem leaves (h : LineFlipped s p u) (stands : Stands u v) (tx : v.tx.get p = u.tx.get p)
    (left : ∀ c, (v.lane p c).history = (u.lane p c).history ∧
      ∃ late, u.queue p c = late ++ v.queue p c ∧ ∀ e ∈ late, u.late p c e = true) : LineFlipped s p v where
  stands := h.stands.trans stands
  free idle c := by
    rw [tx] at idle
    obtain ⟨history, late, queue, were⟩ := h.free idle c
    obtain ⟨history', late', queue', are⟩ := left c
    refine ⟨history'.trans history, late ++ late', by rw [queue, queue', List.append_assoc], fun e inside => ?_⟩
    obtain inside | inside := List.mem_append.1 inside
    · exact were e inside
    · have now := are e inside
      rwa [State.late, h.stands.timebase, h.stands.classPol] at now
  launched x d := by
    rw [tx]
    exact h.launched x d

/-- An act that leaves the queues and histories of the line. -/
theorem rests (h : LineFlipped s p u) (stands : Stands u v) (tx : v.tx.get p = u.tx.get p)
    (queues : ∀ c, v.queue p c = u.queue p c)
    (history : ∀ c, (v.lane p c).history = (u.lane p c).history) : LineFlipped s p v :=
  h.leaves stands tx fun c => ⟨history c, [], (queues c).symm, by simp⟩

/-- An act of the other line's blocks. -/
theorem opposite (h : LineFlipped s p.opposite u) (reach : EgressReach p u v) : LineFlipped s p.opposite v :=
  h.rests (.of_reach reach) reach.tx (fun _ => by unfold State.queue; rw [reach.queues])
    fun _ => by unfold State.lane; rw [reach.pacer]

/-- R85, R87: the check of a queue takes its leading late heads. -/
theorem queue (h : LineFlipped s p u) (k : TrafficClass) : LineFlipped s p (checkHead p k u) := by
  refine h.leaves (.of_reach (checkHead_reach u p k)) (by rw [checkHead_tx]) fun c => ?_
  obtain ⟨checked, -⟩ | ⟨checked, -⟩ := checkHead_cases u p k <;> rw [checked]
  · by_cases own : c = k
    · subst own
      refine ⟨newHead_history u p c, (u.queue p c).takeWhile (u.late p c), ?_, fun e inside =>
        List.mem_takeWhile_imp inside⟩
      rw [newHead_queue, List.takeWhile_append_dropWhile]
    · have other : (p, c) ≠ (p, k) := by simp [own]
      exact ⟨by rw [newHead_lane_ne u p k p c other], [], (newHead_queue_ne u p k p c other).symm, by simp⟩
  · exact ⟨rfl, [], rfl, by simp⟩

/-- R105: the evaluation of a head. -/
theorem head (h : LineFlipped s p u) (k : TrafficClass) : LineFlipped s p (evaluateOffer p k u) :=
  h.rests (.of_reach (evaluateOffer_reach u p k)) (by rw [evaluateOffer_tx])
    (fun _ => by unfold State.queue; rw [evaluateOffer_queues]) fun c => evaluateOffer_history u p k p c

/-- R123: the acts of the cadence unit. -/
theorem unit (h : LineFlipped s p u) (old : PortPol) : LineFlipped s p (cadenceFlip p old u) := by
  have traffic := cadenceFlip_traffic u p old
  exact h.rests (.of_reach (cadenceFlip_reach u p old)) (by rw [traffic.tx])
    (fun _ => by unfold State.queue; rw [traffic.queues]) fun _ => by unfold State.lane; rw [traffic.pacer]

/-- The offers are no part of it. -/
theorem of_offers (h : LineFlipped s p u) (offers : PerLine Nat) : LineFlipped s p { u with offers := offers } :=
  h.rests ⟨rfl, rfl, rfl⟩ rfl (fun _ => rfl) fun _ => rfl

/-- R99, R105: a decision of the arbiter launches an open head, or leaves the line free. -/
theorem decides (h : LineFlipped s p u) (idle : (u.tx.get p).launch = none) (decision : Decides p u v)
    (stands : Stands u v) : LineFlipped s p v := by
  have free := h.free idle
  obtain ⟨rests, idle'⟩ | ⟨x, started, opens⟩ := decision
  · exact
      { stands := h.stands.trans stands
        free := fun _ c => by
          unfold State.queue
          rw [rests.queues, rests.history]
          exact free c
        launched := fun x d busy => absurd (idle'.symm.trans busy) (by simp) }
  · refine ⟨h.stands.trans stands, fun idle' => absurd (idle'.symm.trans started) (by simp), fun y d busy passed => ?_⟩
    obtain rfl := Option.some.inj (started.symm.trans busy)
    obtain ⟨c, ⟨d0, rest, queue, launched⟩, allowed⟩ := opens d passed
    obtain ⟨history, late, left, were⟩ := free c
    refine ⟨c, late, ⟨⟨d0, rest, ?_, launched⟩, ?_⟩, were⟩
    · rw [left, queue, List.nil_append]
    · exact (h.stands.allows history).symm.trans allowed

/-- R109: the arbiter is offered its decision, or takes it. -/
theorem arbiter (h : LineFlipped s p u) (s0 : State) (acts : List FlipAct) :
    LineFlipped s p (flipAct s0 acts (.arbiter p) u) := by
  unfold flipAct
  dsimp only
  split
  · rw [offer_eq]
    exact h.of_offers _
  · unfold decideNow
    dsimp only
    split
    · rename_i may
      have idle := Option.isNone_iff_eq_none.1 (Bool.and_eq_true_iff.1 may).2
      have decided := h.decides idle (arbitrate_decides idle) (.of_reach (arbitrate_reach u p))
      split
      · exact decided
      · exact decided.of_offers _
    · exact h

/-- One act of the flip. -/
theorem act (h : LineFlipped s p u) (s0 : State) (acts : List FlipAct) (a : FlipAct) :
    LineFlipped s p (flipAct s0 acts a u) := by
  obtain rfl | rfl := Line.eq_or_opposite a.line p
  · cases a with
    | queue p c => exact h.queue c
    | head p c => exact h.head c
    | cadence p => exact h.unit _
    | arbiter p => exact h.arbiter s0 acts
  · exact h.opposite (flipAct_reach u s0 acts a)

end LineFlipped

theorem flip_lineFlipped {s : State} {p : Line} (idle : (s.tx.get p).launch = none) :
    LineFlipped (flipStore s) p (flip s) := by
  have start : LineFlipped (flipStore s) p (flipStore s) := .start (by rw [flipStore_eq]; exact idle)
  have acted := flipActs_keeps (LineFlipped (flipStore s) p) s (fun acts a _ h => h.act s acts a)
    (flipOrder s.choices flipAll) _ start
  exact acted.rests ⟨rfl, rfl, rfl⟩ rfl (fun _ => rfl) fun _ => rfl

/-! ## Every command -/

/-- R87, R99: a class frame that a command launches on a free line was an open head, behind late heads at a COMMIT
alone. -/
theorem exec_launches {i : Instr} {p : Line} {d : Descriptor} {x : Launch} {s t : State} (next : exec i s = .next t)
    (idle : (s.tx.get p).launch = none) (busy : (t.tx.get p).launch = some x) (passed : x.source = .passed d) :
    ∃ c late, (∀ e ∈ late, overdue s.timebase (t.classPol p c).residence e = true) ∧
      (∃ d0 rest, s.queue p c = late ++ d0 :: rest ∧ d = { d0 with state := .launching }) ∧
      ((∀ ops, i ≠ .commit ops) → late = []) ∧
      windowAllows s.timebase (s.lane p c).history (t.classPol p c) = true := by
  obtain none | ⟨q, rfl⟩ | ⟨h, rfl⟩ := leaves_launches s (exec_leaves next)
  · exact absurd ((none p idle).symm.trans busy) (by simp)
  · have reach := decideOffer_reach s q
    obtain rfl | rfl := Line.eq_or_opposite q p
    · have stands := Stands.of_reach reach
      obtain ⟨-, quiet⟩ | ⟨y, started, opens⟩ := arbitrate_decides idle
      · exact absurd (quiet.symm.trans busy) (by simp)
      · obtain rfl := Option.some.inj (started.symm.trans busy)
        obtain ⟨c, head, allowed⟩ := opens d passed
        refine ⟨c, [], by simp, head, fun _ => rfl, ?_⟩
        rw [stands.classPol]
        exact allowed
    · rw [reach.tx, idle] at busy
      exact absurd busy (by simp)
  · have flipped := flip_lineFlipped idle
    obtain ⟨c, late, ⟨head, allowed⟩, were⟩ := flipped.launched x d busy passed
    have pol : (waitForCopy h (flip s)).classPol p c = (flipStore s).classPol p c := flipped.stands.classPol p c
    have advanced : (waitForCopy h (flip s)).store.generation = nextGeneration s.store.generation := by
      show (flip s).store.generation = _
      rw [flip_store, flipStore_eq]
    refine ⟨c, late, fun e inside => ?_, ?_, fun other => ?_, ?_⟩
    · rw [pol]
      have := were e inside
      rwa [State.late, show (flipStore s).timebase = s.timebase by rw [flipStore_eq]] at this
    · rwa [show (flipStore s).queue p c = s.queue p c by rw [flipStore_eq]; rfl] at head
    · obtain ⟨ops, commit⟩ := commit_of_nextGeneration next advanced
      exact absurd commit (other ops)
    · rw [pol]
      rwa [State.Allows, show (flipStore s).timebase = s.timebase by rw [flipStore_eq],
        show (flipStore s).lane p c = s.lane p c by rw [flipStore_eq]; rfl] at allowed

/-- Settles O22: only a decision and a flip launch, and in both the head launched had its window open. -/
theorem noHeadLaunchedAgainstWindow : Obligations.NoHeadLaunchedAgainstWindow := by
  intro i p d x s t next free busy passed
  obtain ⟨c, late, were, ⟨d0, rest, queue, launched⟩, alone, allowed⟩ :=
    exec_launches next (Option.isNone_iff_eq_none.1 free) busy passed
  exact ⟨c, late, d0, rest, queue, launched, were, alone, (windowAllows_iff _ _ _).1 allowed⟩

end Sys2Proof.Machine
end

section
/-! SUPPORT. The laws of a cadence unit (R116, R117, R119, R120), one by one, and what each act leaves of them. -/

namespace Sys2Proof.Machine

/-! ## The laws of one unit -/

/-- R116, R120: at most 8 entries are owed, and a FORCED unit owes one. -/
def Cadence.Owes (u : Cadence) : Prop := u.owed.length ≤ 8 ∧ (u.forced = true → u.owed ≠ [])

/-- R119: a debt at or above Dmax finds the unit FORCED. -/
def Cadence.ForcedFrom (u : Cadence) (dmax : Byte) : Prop := dmax.toNat ≤ u.owed.length → u.forced = true

/-- R117: the timer runs exactly on a line that is UP, with a Tc other than 0. -/
def Cadence.Runs (u : Cadence) (up : Bool) (tc : Half) : Prop := u.timer ≠ .stopped ↔ up = true ∧ tc ≠ 0

/-- R120: the unit after the launch that pays its oldest entry, which leaves `rest` owed. -/
def Cadence.paid (u : Cadence) (rest : List Time) : Cadence :=
  { u with owed := rest, forced := u.forced && !rest.isEmpty, seq := u.seq + 1 }

theorem cadenceInv_iff (s : State) (p : Line) :
    s.CadenceInv p ↔ (s.cadence.get p).Owes ∧ (s.cadence.get p).ForcedFrom (s.portPol p).dmax ∧
      (s.cadence.get p).Runs (s.isUp p) (s.portPol p).tc := and_assoc.symm

theorem Cadence.Owes.paid {u : Cadence} (h : u.Owes) {t : Time} {rest : List Time} (due : u.owed = t :: rest) :
    (u.paid rest).Owes := by
  obtain ⟨few, -⟩ := h
  rw [due, List.length_cons] at few
  refine ⟨Nat.le_of_succ_le few, fun forced none => ?_⟩
  obtain rfl : rest = [] := none
  simp [Cadence.paid] at forced

theorem Cadence.ForcedFrom.paid {u : Cadence} {dmax : Byte} (some : 1 ≤ dmax.toNat) (h : u.ForcedFrom dmax) {t : Time}
    {rest : List Time} (due : u.owed = t :: rest) : (u.paid rest).ForcedFrom dmax := by
  intro reached
  have reached : dmax.toNat ≤ rest.length := reached
  have forced := h (by rw [due]; exact Nat.le_succ_of_le reached)
  have left : rest ≠ [] := List.ne_nil_of_length_pos (some.trans reached)
  simp [Cadence.paid, forced, left]

/-- R119: the FORCED test sets the flag where it is owed, and clears it nowhere. -/
theorem forced_laws {u : Cadence} (owes : u.Owes) {dmax : Byte} (some : 1 ≤ dmax.toNat) (timer : Timer) :
    let v := { u with timer := timer, forced := u.forced || decide (dmax.toNat ≤ u.owed.length) }
    v.Owes ∧ v.ForcedFrom dmax := by
  obtain ⟨few, owing⟩ := owes
  refine ⟨⟨few, fun forced => ?_⟩, fun reached => ?_⟩
  · obtain was | reached := Bool.or_eq_true_iff.1 forced
    · exact owing was
    · exact List.ne_nil_of_length_pos (some.trans (of_decide_eq_true reached))
  · exact Bool.or_eq_true_iff.2 (.inr (decide_eq_true reached))

/-- R33: the Dmax of a checked entry is not 0. -/
theorem Bank.EntriesOk.dmax_pos {b : Bank} (h : b.EntriesOk) (p : Line) : 1 ≤ (b.portpol.get p).dmax.toNat := by
  obtain ⟨-, -, -, ports, -⟩ := h
  have ok := ports p
  simp only [PortPol.ok, Bool.and_eq_true, decide_eq_true_eq] at ok
  exact ok.1.2

theorem State.EntriesInv.active {s : State} (h : s.EntriesInv) : s.active.EntriesOk :=
  (entriesInv_iff s).1 h s.store.active

theorem State.EntriesInv.dmax_pos {s : State} (h : s.EntriesInv) (p : Line) : 1 ≤ (s.portPol p).dmax.toNat :=
  h.active.dmax_pos p

/-! ## Acts that leave a unit, and payments -/

/-- From `s` to `t` the cadence unit of line `p` stands, and so does what its laws read. -/
structure UnitRests (p : Line) (s t : State) : Prop where
  unit : t.cadence.get p = s.cadence.get p
  portPol : t.portPol p = s.portPol p
  isUp : t.isUp p = s.isUp p

/-- From `s` to `t` the cadence unit of line `p` stands, or one owed entry has been paid. -/
structure UnitPays (p : Line) (s t : State) : Prop where
  unit : t.cadence.get p = s.cadence.get p ∨
    ∃ due rest, (s.cadence.get p).owed = due :: rest ∧ t.cadence.get p = (s.cadence.get p).paid rest
  portPol : t.portPol p = s.portPol p
  isUp : t.isUp p = s.isUp p

section

variable {p : Line} {s t u : State}

namespace UnitRests

theorem refl (p : Line) (s : State) : UnitRests p s s := ⟨rfl, rfl, rfl⟩

theorem trans (h : UnitRests p s t) (k : UnitRests p t u) : UnitRests p s u :=
  ⟨k.unit.trans h.unit, k.portPol.trans h.portPol, k.isUp.trans h.isUp⟩

theorem pays (h : UnitRests p s t) : UnitPays p s t := ⟨.inl h.unit, h.portPol, h.isUp⟩

/-- The egress side of a line leaves the unit of the other one. -/
theorem of_opposite (reach : EgressReach p s t) : UnitRests p.opposite s t :=
  ⟨reach.cadence, (Stands.of_reach reach).portPol _, reach.isUp _⟩

theorem of_reach {q : Line} (reach : EgressReach q s t) (cadence : t.cadence = s.cadence) : UnitRests p s t :=
  ⟨by rw [cadence], (Stands.of_reach reach).portPol p, reach.isUp p⟩

theorem of_frame {l : Line} (frame : FrameReach l s t) : UnitRests p s t := by
  refine ⟨by rw [frame.cadence], ?_, frame.isUp p⟩
  unfold State.portPol State.active
  rw [frame.store]
  rfl

theorem cadenceInv (h : UnitRests p s t) (inv : s.CadenceInv p) : t.CadenceInv p := by
  unfold State.CadenceInv
  rw [h.unit, h.portPol, h.isUp]
  exact inv

end UnitRests

namespace UnitPays

theorem owes (h : UnitPays p s t) (owes : (s.cadence.get p).Owes) : (t.cadence.get p).Owes := by
  obtain same | ⟨due, rest, owed, paid⟩ := h.unit
  · rw [same]
    exact owes
  · rw [paid]
    exact owes.paid owed

theorem timer (h : UnitPays p s t) : (t.cadence.get p).timer = (s.cadence.get p).timer := by
  obtain same | ⟨due, rest, -, paid⟩ := h.unit
  · rw [same]
  · rw [paid]
    rfl

theorem runs (h : UnitPays p s t) {tc : Half} (runs : (s.cadence.get p).Runs (s.isUp p) tc) :
    (t.cadence.get p).Runs (t.isUp p) tc := by
  unfold Cadence.Runs
  rw [h.timer, h.isUp]
  exact runs

/-- R119, R120: a payment keeps the laws; the debt that it leaves was Dmax or above only on a FORCED unit. -/
theorem cadenceInv (h : UnitPays p s t) (some : 1 ≤ (s.portPol p).dmax.toNat) (inv : s.CadenceInv p) :
    t.CadenceInv p := by
  rw [cadenceInv_iff] at inv ⊢
  obtain ⟨owes, forced, runs⟩ := inv
  rw [h.portPol]
  refine ⟨h.owes owes, ?_, h.runs runs⟩
  obtain same | ⟨due, rest, owed, paid⟩ := h.unit
  · rw [same]
    exact forced
  · rw [paid]
    exact forced.paid some owed

end UnitPays

end

/-! ## Decisions -/

theorem launchCadence_unit (s : State) (p : Line) (t : Time) (rest : List Time) :
    (launchCadence p t rest s).cadence.get p = (s.cadence.get p).paid rest := PerLine.get_set_same _ _ _

/-- R110, R120: a decision pays one owed entry, or leaves the unit. -/
theorem arbitrate_pays (s : State) (p : Line) : UnitPays p s (arbitrate p s) := by
  have reach := arbitrate_reach s p
  refine ⟨?_, (Stands.of_reach reach).portPol p, reach.isUp p⟩
  have passed : ∀ cs : List TrafficClass, (cs.foldl (State.passedOver p) s).cadence = s.cadence := fun cs => by
    obtain ⟨_, _, shape⟩ := passedOver_fold_shape p cs s
    rw [shape]
  have decision := arbitrate_decision s p
  generalize arbitrate p s = v at *
  cases decision with
  | quiet owed service closed => exact .inl (by rw [passed])
  | cadence front t rest owed =>
    refine .inr ⟨t, rest, owed, ?_⟩
    rw [launchCadence_unit, passed]
  | service e rest queue => exact .inl rfl
  | head front c d rest queue =>
    obtain ⟨_, _, _, _, _, shape⟩ := newHead_shape
      (((front ++ [c]).foldl (State.passedOver p) s).launching p c d rest) p c
    refine .inl ?_
    rw [launchHead_eq, shape]
    exact congrArg (PerLine.get · p) (passed (front ++ [c]))

theorem decideOffer_pays (s : State) (p : Line) : UnitPays p s (decideOffer p s) :=
  let ⟨unit, portPol, isUp⟩ := arbitrate_pays s p
  ⟨unit, portPol, isUp⟩

theorem decideNow_pays (s : State) (p : Line) : UnitPays p s (decideNow p s) := by
  unfold decideNow
  dsimp only
  split
  · split
    · exact arbitrate_pays s p
    · obtain ⟨unit, portPol, isUp⟩ := arbitrate_pays s p
      exact ⟨unit, portPol, isUp⟩
  · exact (UnitRests.refl p s).pays

/-! ## The timer started, and the unit emptied -/

section

variable (s : State) (p : Line)

/-- R117: a timer started runs exactly as the law says. -/
theorem startTimer_cadenceInv (owes : (s.cadence.get p).Owes)
    (forced : (s.cadence.get p).ForcedFrom (s.portPol p).dmax) : (startTimer p s).CadenceInv p := by
  have unit : (startTimer p s).cadence.get p = { s.cadence.get p with
      timer := if s.isUp p && (s.portPol p).tc != 0
        then .running (s.timebase + (s.portPol p).tc.setWidth 32) else .stopped } := PerLine.get_set_same _ _ _
  rw [cadenceInv_iff, unit]
  refine ⟨owes, forced, ?_⟩
  show (if s.isUp p && (s.portPol p).tc != 0 then Timer.running _ else .stopped) ≠ .stopped ↔
    s.isUp p = true ∧ (s.portPol p).tc ≠ 0
  by_cases started : (s.isUp p && (s.portPol p).tc != 0) = true
  · rw [if_pos started]
    simpa using started
  · rw [if_neg started]
    simpa using started

/-- R124, R125: a unit that owes nothing and is not FORCED. -/
theorem emptied_laws {u : Cadence} (owed : u.owed = []) (forced : u.forced = false) {dmax : Byte}
    (some : 1 ≤ dmax.toNat) : u.Owes ∧ u.ForcedFrom dmax := by
  refine ⟨⟨by simp [owed], by simp [forced]⟩, fun reached => ?_⟩
  rw [owed] at reached
  exact absurd (some.trans reached) (by simp)

theorem clearEgress_cadenceInv (some : 1 ≤ (s.portPol p).dmax.toNat) : (clearEgress p s).CadenceInv p := by
  have portPol := (Stands.of_reach (flushLine_reach s p)).portPol p
  unfold clearEgress cadenceTraffic
  obtain ⟨owes, forced⟩ := emptied_laws
    (u := { (flushLine p s).cadence.get p with owed := [], forced := false }) rfl rfl some
  refine startTimer_cadenceInv _ p ?_ ?_ <;> rw [setCadence_cadence, PerLine.get_set_same]
  · exact owes
  · exact portPol ▸ forced

end

end Sys2Proof.Machine
end

section
/-! SUPPORT. The cadence expiry (R118, R119), and the laws of the cadence units through each act: the proof that every
step keeps them. -/

namespace Sys2Proof.Machine

section

variable (s : State) (p : Line)

/-! ## The cadence expiry -/

/-- R118: the unit at an expiry due at `due`, before the FORCED test or the notice of a slip. -/
def State.expiredUnit (s : State) (p : Line) (due : Time) : Cadence :=
  { s.cadence.get p with
    timer := .running (due + (s.portPol p).tc.setWidth 32)
    owed := if (s.cadence.get p).owed.length < 8 then (s.cadence.get p).owed ++ [s.timebase]
      else (s.cadence.get p).owed }

theorem cadenceExpire_owes (due : Time) (room : (s.cadence.get p).owed.length < 8) :
    cadenceExpire p due s = offer p (forcedTest p (s.setCadence p (s.expiredUnit p due))) := by
  unfold cadenceExpire State.expiredUnit
  simp only [if_pos room]

/-- R119: the state at a slip, before its notice. -/
def State.slipCounted (s : State) (p : Line) (due : Time) : State :=
  count (.line p .slips) 1 (s.setCadence p (s.expiredUnit p due))

theorem cadenceExpire_slips (due : Time) (full : 8 ≤ (s.cadence.get p).owed.length) :
    cadenceExpire p due s = offer p (notify (.cadenceSlip p (s.cadence.get p).owed.length) s.timebase
      (s.slipCounted p due)) := by
  have noRoom : ¬ (s.cadence.get p).owed.length < 8 := Nat.not_lt.2 full
  unfold cadenceExpire State.slipCounted State.expiredUnit
  simp only [if_neg noRoom]

theorem offer_cadence : (offer p s).cadence = s.cadence := by
  rw [offer_eq]

theorem notify_cadence (e : NoticeEvent) (t : Time) : (notify e t s).cadence = s.cadence := by
  obtain ⟨_, _, _, shape⟩ := notify_shape s e t
  rw [shape]

/-- R118, R119: the unit that an expiry leaves. -/
theorem cadenceExpire_unit (due : Time) : (cadenceExpire p due s).cadence.get p =
    if (s.cadence.get p).owed.length < 8 then
      { s.expiredUnit p due with
        forced := (s.cadence.get p).forced ||
          decide ((s.portPol p).dmax.toNat ≤ (s.expiredUnit p due).owed.length) }
    else s.expiredUnit p due := by
  by_cases room : (s.cadence.get p).owed.length < 8
  · rw [if_pos room, cadenceExpire_owes s p due room, offer_cadence, forcedTest_cadence, setCadence_cadence,
      PerLine.get_set_same, PerLine.get_set_same]
    rfl
  · rw [if_neg room, cadenceExpire_slips s p due (Nat.not_lt.1 room), offer_cadence, notify_cadence]
    exact PerLine.get_set_same _ _ _

/-- R116 to R119: an expiry keeps the laws of the unit whose timer runs. -/
theorem cadenceExpire_cadenceInv {due : Time} (running : (s.cadence.get p).timer = .running due)
    (some : 1 ≤ (s.portPol p).dmax.toNat) (inv : s.CadenceInv p) : (cadenceExpire p due s).CadenceInv p := by
  have reach := cadenceExpire_reach s p due
  obtain ⟨owes, forced, runs⟩ := (cadenceInv_iff s p).1 inv
  have live := runs.1 (by rw [running]; simp)
  rw [cadenceInv_iff, cadenceExpire_unit, (Stands.of_reach reach).portPol, reach.isUp]
  by_cases room : (s.cadence.get p).owed.length < 8
  · have longer : (s.expiredUnit p due).Owes := by
      unfold Cadence.Owes State.expiredUnit
      rw [if_pos room, List.length_append]
      exact ⟨room, fun _ => by simp⟩
    obtain ⟨owes', forced'⟩ := forced_laws longer some (s.expiredUnit p due).timer
    rw [if_pos room]
    exact ⟨owes', forced', iff_of_true (by simp [State.expiredUnit]) live⟩
  · rw [if_neg room]
    unfold State.expiredUnit
    rw [if_neg room]
    exact ⟨owes, forced, iff_of_true (by simp) live⟩

/-! ## The flip -/

/-- R119, R123: the acts of a unit at a flip give it the laws of the new entry, when its timer ran by the old one. -/
theorem cadenceFlip_cadenceInv {old : PortPol} (owes : (s.cadence.get p).Owes) (some : 1 ≤ (s.portPol p).dmax.toNat)
    (runs : (s.portPol p).tc = old.tc → (s.cadence.get p).Runs (s.isUp p) old.tc) :
    (cadenceFlip p old s).CadenceInv p := by
  have reach := cadenceFlip_reach s p old
  obtain ⟨owes', forced'⟩ := forced_laws owes some (s.flipTimer p old)
  rw [cadenceInv_iff, cadenceFlip_cadence, PerLine.get_set_same, (Stands.of_reach reach).portPol, reach.isUp]
  refine ⟨owes', forced', ?_⟩
  show s.flipTimer p old ≠ .stopped ↔ s.isUp p = true ∧ (s.portPol p).tc ≠ 0
  unfold State.flipTimer
  by_cases same : (s.portPol p).tc = old.tc
  · rw [if_pos same, same]
    exact runs same
  · rw [if_neg same]
    by_cases started : (s.isUp p && (s.portPol p).tc != 0) = true
    · rw [if_pos started]
      simpa using started
    · rw [if_neg started]
      simpa using started

/-- The acts of a flip but those of the unit itself leave the unit, or pay one of its entries. -/
theorem flipAct_pays (s0 : State) (rest : List FlipAct) {a : FlipAct} (other : a ≠ .cadence p) :
    UnitPays p s (flipAct s0 rest a s) := by
  obtain own | opposite := Line.eq_or_opposite a.line p
  · cases a with
    | queue q c =>
      obtain ⟨_, _, _, _, _, shape⟩ := checkHead_shape s q c
      exact (UnitRests.of_reach (checkHead_reach s q c) (by rw [shape])).pays
    | head q c =>
      obtain ⟨_, _, _, shape⟩ := evaluateOffer_shape s q c
      exact (UnitRests.of_reach (evaluateOffer_reach s q c) (by rw [shape])).pays
    | cadence q => exact absurd (congrArg FlipAct.cadence own.symm) other
    | arbiter q =>
      obtain rfl : p = q := own
      unfold flipAct
      dsimp only
      split
      · exact (UnitRests.of_reach (offer_reach s p p) (offer_cadence s p)).pays
      · exact decideNow_pays s p
  · rw [opposite]
    exact (UnitRests.of_opposite (flipAct_reach s s0 rest a)).pays

theorem flipAct_cadenceInv (s0 : State) (rest : List FlipAct) (a : FlipAct) (some : 1 ≤ (s.portPol p).dmax.toNat)
    (inv : s.CadenceInv p) : (flipAct s0 rest a s).CadenceInv p := by
  by_cases own : a = .cadence p
  · subst own
    obtain ⟨owes, -, runs⟩ := (cadenceInv_iff s p).1 inv
    exact cadenceFlip_cadenceInv s p owes some fun same => same ▸ runs
  · exact (flipAct_pays s p s0 rest own).cadenceInv some inv

/-- R123: once the acts of the unit have been among the acts of a flip, its laws hold under the new entry. -/
theorem flipActs_cadenceInv (s0 : State) (as : List FlipAct) (tests : .cadence p ∈ as) : ∀ u : State,
    1 ≤ (u.portPol p).dmax.toNat → (u.cadence.get p).Owes →
    (u.cadence.get p).Runs (u.isUp p) (s0.portPol p).tc → (flipActs s0 as u).CadenceInv p := by
  induction as with
  | nil => exact absurd tests (by simp)
  | cons a as ih =>
    intro u some owes runs
    have stands : ∀ (rest : List FlipAct) (b : FlipAct) (v : State), (flipAct s0 rest b v).portPol p = v.portPol p :=
      fun rest b v => (Stands.of_reach (flipAct_reach v s0 rest b)).portPol p
    by_cases own : a = .cadence p
    · subst own
      have tested : (flipAct s0 as (.cadence p) u).CadenceInv p := cadenceFlip_cadenceInv u p owes some fun _ => runs
      refine (flipActs_keeps (fun v => 1 ≤ (v.portPol p).dmax.toNat ∧ v.CadenceInv p) s0
        (fun rest b v known => ?_) as _ ⟨by rwa [stands], tested⟩).2
      exact ⟨by rw [stands]; exact known.1, flipAct_cadenceInv v p s0 rest b known.1 known.2⟩
    · have pays := flipAct_pays u p s0 as own
      exact ih ((List.mem_cons.1 tests).resolve_left (Ne.symm own)) _ (by rwa [stands]) (pays.owes owes)
        (pays.runs runs)

/-- R48, R49, R123: the laws through a flip. -/
theorem flip_cadenceInv (entries : s.EntriesInv) (inv : s.CadenceInv p) : (flip s).CadenceInv p := by
  have some : 1 ≤ ((flipStore s).portPol p).dmax.toNat := (flipStore_entriesOk entries).dmax_pos p
  obtain ⟨owes, -, runs⟩ := (cadenceInv_iff s p).1 inv
  have stored := flipStore_eq s
  refine flipActs_cadenceInv p s _ ?_ (flipStore s) some ?_ ?_
  · exact (flipOrder_perm s.choices flipAll).mem_iff.2 (mem_flipAll _)
  · rw [stored]
    exact owes
  · rw [stored]
    exact runs

end

end Sys2Proof.Machine
end

section
/-! SUPPORT. The laws of the cadence units through the line, the agent and every act, and the proof that every step
keeps them (R116 to R125). -/

namespace Sys2Proof.Machine

/-! ## The management agent -/

/-- From `s` to `t` the agent has acted on a request: the contexts, its own records, the service queues, the offers and
the counters may differ, and nothing else. -/
def RequestReach (s t : State) : Prop :=
  ∃ cs re ag sv of ct,
    t = { s with contexts := cs, recency := re, agent := ag, service := sv, offers := of, counters := ct }

namespace RequestReach

variable {s t u : State}

theorem refl (s : State) : RequestReach s s := ⟨_, _, _, _, _, _, rfl⟩

theorem trans (h : RequestReach s t) (k : RequestReach t u) : RequestReach s u := by
  obtain ⟨_, _, _, _, _, _, rfl⟩ := h
  obtain ⟨_, _, _, _, _, _, rfl⟩ := k
  exact ⟨_, _, _, _, _, _, rfl⟩

theorem unit (h : RequestReach s t) (p : Line) : UnitRests p s t := by
  obtain ⟨_, _, _, _, _, _, rfl⟩ := h
  exact ⟨rfl, rfl, rfl⟩

end RequestReach

section

variable (s : State)

theorem setContext_request (i : Fin 4) (c : Option Context) : RequestReach s (s.setContext i c) :=
  ⟨_, _, _, _, _, _, rfl⟩

theorem onRole_request (i : Fin 4) (f : Role → Role) : RequestReach s (onRole i f s) := setContext_request s i _

theorem setAgent_request (a : Agent) : RequestReach s (s.setAgent a) := ⟨_, _, _, _, _, _, rfl⟩

theorem nextRequest_request : RequestReach s (nextRequest s) := setAgent_request s _

theorem touch_request (i : Fin 4) : RequestReach s (touch i s) := ⟨_, _, _, _, _, _, rfl⟩

theorem sendReply_request (l : Line) (frame : List Byte) (awaited : Bool) :
    RequestReach s (sendReply l frame awaited s) := by
  obtain ⟨_, _, _, shape⟩ := sendReply_shape s l frame awaited
  rw [shape]
  exact ⟨_, _, _, _, _, _, rfl⟩

/-- R139, R159: an answer stays within the agent, or lets a FULL reset take effect. -/
theorem answer_request (status : Byte) (h : InHand) :
    RequestReach s (answer status h s) ∨ ∃ u, answer status h s = fullReset u := by
  unfold answer
  dsimp only
  split
  · exact .inl (((setContext_request s _ _).trans (sendReply_request _ _ _ _)).trans (nextRequest_request _))
  · split
    · exact .inl (((setContext_request s _ _).trans (sendReply_request _ _ _ _)).trans (setAgent_request _ _))
    · exact .inr ⟨_, rfl⟩

theorem beginRequest_request (i : Fin 4) (r : Request) : RequestReach s (beginRequest i r s) := by
  unfold beginRequest
  dsimp only
  split
  · exact (onRole_request s i _).trans (setAgent_request _ _)
  · refine (onRole_request s i (Role.renew s.timebase)).trans ?_
    obtain ⟨_, _, _, _, _, shape⟩ := answer_shape (onRole i (Role.renew s.timebase) s) requestMalformed
      { ctx := i, line := r.line, src := wordAt r.frame 4, flow := halfAt r.frame 10, seq := halfAt r.frame 12,
        results := [], toRun := [], sections := [], full := false } rfl
    rw [shape]
    exact ⟨_, _, _, _, _, _, rfl⟩

theorem replay_request (i : Fin 4) (l : Line) : RequestReach s (replay i l s) := by
  unfold replay
  dsimp only
  refine .trans ?_ (nextRequest_request _)
  split
  · exact (onRole_request s _ _).trans (sendReply_request _ _ _ _)
  · exact onRole_request s _ _

theorem judgeRequest_request (i : Fin 4) (c : Context) (r : Request) : RequestReach s (judgeRequest i c r s) := by
  unfold judgeRequest
  split
  · exact (setContext_request s _ _).trans (beginRequest_request _ i r)
  · exact replay_request s i r.line
  · exact (sendReply_request s _ _ _).trans (nextRequest_request _)

theorem takeRequest_request (r : Request) : RequestReach s (takeRequest r s) := by
  unfold takeRequest
  dsimp only
  split
  · split
    · exact (touch_request s _).trans (judgeRequest_request _ _ _ r)
    · exact .refl s
  · split
    · exact ((setContext_request s _ _).trans (touch_request _ _)).trans (beginRequest_request _ _ r)
    · exact .refl s

theorem goOn_request (h : InHand) : RequestReach s (goOn h s) ∨ ∃ u, goOn h s = fullReset u := by
  unfold goOn
  split
  · exact answer_request s _ h
  · split
    · exact .inl (setAgent_request s _)
    · exact .inl (.refl s)

/-! ## Commands of a request -/

variable (h : InHand) (p : Line)

/-- A command that stays within the agent leaves the units where the active bank stands. -/
theorem unit_of_command {t : State} (reach : CommandReach s t) (active : t.active = s.active) : UnitRests p s t := by
  refine ⟨?_, by simp only [State.portPol, active], by simp only [State.isUp, reach.port]⟩
  obtain ⟨_, _, _, _, rfl, -⟩ := reach
  rfl

theorem commitNow_unit : UnitRests p s (commitNow h s) ∨ commitNow h s = waitForCopy h (flip s) := by
  unfold commitNow
  split
  · exact .inl (setAgent_request s _ |>.unit p)
  · split
    · exact .inr rfl
    · exact .inl (setAgent_request s _ |>.unit p)

/-- What a command of a request does to the unit of a line: nothing, a flip, or the TRAFFIC reset. -/
theorem command_unit {i : Instr} {f : InHand → State → State} (means : commandMeaning i = some f) :
    UnitRests p s (f h s) ∨ f h s = waitForCopy h (flip s) ∨ f h s = finishCommand h .ok [] (trafficReset s) := by
  have finished : ∀ (u : State) st d, UnitRests p u (finishCommand h st d u) := fun u st d =>
    (setAgent_request u _).unit p
  obtain reach | flips | ⟨k, r, bs, -, frees⟩ | resets := command_cases h s means
  · have within : (f h s).active = s.active → UnitRests p s (f h s) := unit_of_command s p reach
    cases command_move s h means with
    | rests moved =>
      obtain ⟨-, ph, store, -⟩ := moved
      exact .inl (within (by unfold State.active; rw [store]; rfl))
    | copying dirty straps store => exact .inl (within (by unfold State.active; rw [store]; rfl))
    | staged b straps store =>
      exact .inl (within (by unfold State.active; rw [store]; exact setStaging_activeBank s.store b))
    | copied straps store =>
      exact .inl (within (by unfold State.active; rw [store]; exact setStaging_activeBank s.store _))
    | flipped ops commit dirty ph adopts store =>
      subst commit
      obtain rfl := Option.some.inj means
      have judged := commitNow_unit s h p
      exact (editorOnly_leads (P := fun t => UnitRests p s t ∨ t = waitForCopy h (flip s)) s h (.inl (finished s _ _))
        (withForm_leads (P := fun t => UnitRests p s t ∨ t = waitForCopy h (flip s)) s h (.inl (finished s _ _))
          judged)).imp_right .inl
    | reset brings store time free =>
      obtain rfl | ⟨_, rfl⟩ | ⟨_, rfl⟩ | rfl | ⟨_, rfl⟩ := brings <;> exact absurd means (by simp [commandMeaning])
  · exact .inr (.inl flips)
  · rw [frees]
    exact .inl (.trans (t := s.setCapture (s.capture.empty1 k)) ⟨rfl, rfl, rfl⟩ (finished _ _ _))
  · exact .inr (.inr resets)

theorem copyDone_unit : UnitRests p s (copyDone s) := by
  refine unit_of_command s p (copyDone_reach s) ?_
  have copied : (finishCopy s).active = s.active := setStaging_activeBank s.store _
  unfold copyDone
  split
  · obtain ⟨_, _, shape⟩ := endWait_shape (finishCopy s) ‹_›
    rw [shape]
    exact copied
  · exact copied

theorem expireLease_unit (i : Fin 4) : UnitRests p s (expireLease i s) := by
  unfold expireLease
  dsimp only
  refine .trans ?_ (.of_reach (notify_reach _ p _ _) (notify_cadence _ _ _))
  split
  · exact ((onRole_request s i _).unit p).trans ⟨rfl, rfl, rfl⟩
  · exact (onRole_request s i _).unit p

end

/-! ## The line and the resets -/

theorem powerOnFrom_cadenceInv (straps : BitVec 6) (low : Bool) (s : State) (p : Line) :
    ({ powerOnFrom straps s with resetLow := low } : State).CadenceInv p := powerOn_cadenceInv straps p

theorem fullReset_cadenceInv (s : State) (p : Line) : (fullReset s).CadenceInv p := powerOnFrom_cadenceInv _ _ s p

section

variable {s : State}

/-- R5, R117: the timer starts with the line-up event. -/
theorem egressUp_cadenceInv (l : Line) (owes : (s.cadence.get l).Owes)
    (forced : (s.cadence.get l).ForcedFrom (s.portPol l).dmax) : (egressUp l s).CadenceInv l := by
  obtain ⟨-, -, -, _, _, _, shape⟩ := evaluateAll l classesUp classesUp_nodup s
  have started : (startTimer l (classesUp.foldl (fun s c => evaluateOffer l c s) s)).CadenceInv l := by
    rw [shape]
    exact startTimer_cadenceInv _ l owes forced
  exact (UnitRests.of_reach (offer_reach _ l l) (offer_cadence _ l)).cadenceInv started

theorem setPort_unit (l : Line) (x : LinePort) {p : Line} (other : p ≠ l) : UnitRests p s (s.setPort l x) :=
  ⟨rfl, rfl, isUp_congr (by rw [setPort_port, PerLine.get_set_ne _ _ _ _ other])⟩

theorem lineUp_cadenceInv (inv : ∀ p, s.CadenceInv p) (l p : Line) : (lineUp l s).CadenceInv p := by
  unfold lineUp
  obtain rfl | rfl := Line.eq_or_opposite l p
  · obtain ⟨owes, forced, -⟩ := (cadenceInv_iff s p).1 (inv p)
    exact egressUp_cadenceInv p owes forced
  · exact ((setPort_unit l _ (Line.opposite_ne l)).trans (.of_opposite (egressUp_reach _ l))).cadenceInv (inv _)

/-- R124: line down stops the timer, empties the owed list and clears the flag. -/
theorem lineDown_cadenceInv (entries : s.EntriesInv) (inv : ∀ p, s.CadenceInv p) (l p : Line) :
    (lineDown l s).CadenceInv p := by
  rw [lineDown_eq]
  split
  · exact fullReset_cadenceInv _ p
  · have reach := egressDown_reach (s.lineClosed l) l
    obtain ⟨own, opposite⟩ := lineClosed_port s l
    obtain ⟨_, _, _, _, _, closed⟩ := lineClosed_shape s l
    have portPol : (s.lineClosed l).portPol p = s.portPol p := by rw [closed]; rfl
    obtain rfl | rfl := Line.eq_or_opposite l p
    · have down : (s.lineClosed p).isUp p = false := by
        unfold State.isUp
        rw [own]
        rfl
      have unit : (egressDown p (s.lineClosed p)).cadence.get p = ((s.lineClosed p).cadence.get p).lineDown := by
        obtain ⟨_, _, _, _, shape⟩ := egressDown_shape (s.lineClosed p) p
        rw [shape]
        exact PerLine.get_set_same _ _ _
      rw [cadenceInv_iff, unit, reach.isUp, (Stands.of_reach reach).portPol, portPol, down]
      obtain ⟨owes, forced⟩ := emptied_laws (u := ((s.lineClosed p).cadence.get p).lineDown) rfl rfl
        (entries.dmax_pos p)
      exact ⟨owes, forced, iff_of_false (by simp [Cadence.lineDown]) (by simp)⟩
    · have closes : UnitRests l.opposite s (s.lineClosed l) := ⟨by rw [closed], portPol, isUp_congr (by rw [opposite])⟩
      exact (closes.trans (.of_opposite reach)).cadenceInv (inv _)

theorem receive_cadenceInv (entries : s.EntriesInv) (inv : ∀ p, s.CadenceInv p) (l : Line) (sym : Symbol) (p : Line) :
    (receive l sym s).CadenceInv p := by
  obtain e | ⟨x, away, stays, -, e⟩ | e | ⟨-, e⟩ | ⟨up, e⟩ := receive_cases s l sym <;> rw [e]
  · exact inv p
  · obtain rfl | rfl := Line.eq_or_opposite l p
    · have still : (s.setPort p x).isUp p = s.isUp p := by
        simp [State.isUp, away, stays]
      exact UnitRests.cadenceInv (s := s) ⟨rfl, rfl, still⟩ (inv p)
    · exact (setPort_unit l x (Line.opposite_ne l)).cadenceInv (inv _)
  · exact lineUp_cadenceInv inv l p
  · exact lineDown_cadenceInv entries inv l p
  · have still : (s.setPort l ((s.port.get l).afterSymbol sym)).isUp p = s.isUp p := by
      refine isUp_congr ?_
      rw [setPort_port, PerLine.get_set]
      split
      · rename_i own
        rw [afterSymbol_line, own]
      · rfl
    have counted : UnitRests p s (s.setPort l ((s.port.get l).afterSymbol sym)) := ⟨rfl, rfl, still⟩
    exact (counted.trans (.of_frame (delimit_frame l _ sym))).cadenceInv (inv p)

/-- R125: the TRAFFIC reset empties both units and starts their timers. -/
theorem trafficReset_cadenceInv (entries : s.EntriesInv) (p : Line) : (trafficReset s).CadenceInv p := by
  have some : ∀ u : State, u.store = s.store → ∀ q, 1 ≤ (u.portPol q).dmax.toNat := fun u store q => by
    unfold State.portPol State.active
    rw [store]
    exact entries.dmax_pos q
  have store : ((discardFrame .s (discardFrame .n s)).setCapture CaptureStore.empty).store = s.store := rfl
  unfold trafficReset
  generalize (discardFrame .s (discardFrame .n s)).setCapture CaptureStore.empty = u at *
  have north := clearEgress_cadenceInv u .n (some u store .n)
  obtain rfl | rfl := Line.eq_or_opposite .s p
  · exact clearEgress_cadenceInv _ .s (some _ ((clearEgress_reach u .n).store.trans store) .s)
  · exact (UnitRests.of_opposite (clearEgress_reach _ .s)).cadenceInv north

theorem completeLaunch_cadenceInv (inv : ∀ p, s.CadenceInv p) (q : Line) (x : Launch) (p : Line) :
    (completeLaunch q x s).CadenceInv p := by
  cases awaited : x.source.awaited with
  | true =>
    unfold completeLaunch
    simp only [awaited, if_true]
    exact fullReset_cadenceInv _ p
  | false =>
    refine (UnitRests.of_reach (completeLaunch_reach s q x awaited) ?_).cadenceInv (inv p)
    unfold completeLaunch
    simp only [awaited, Bool.false_eq_true, if_false]
    rw [offer_cadence]
    cases x.source <;> rfl

/-! ## Every step -/

/-- Every act keeps the laws of both units. -/
theorem act_cadenceInv (entries : s.EntriesInv) (inv : ∀ p, s.CadenceInv p) {t : State} (a : Act s t) (p : Line) :
    t.CadenceInv p := by
  have some := entries.dmax_pos p
  cases a with
  | symbol l sym => exact receive_cadenceInv entries inv l sym p
  | decision q up free =>
    obtain rfl | rfl := Line.eq_or_opposite q p
    · exact (decideOffer_pays s p).cadenceInv some (inv p)
    · exact (UnitRests.of_opposite (decideOffer_reach s q)).cadenceInv (inv _)
  | completion q x busy => exact completeLaunch_cadenceInv inv q x p
  | residence q c =>
    obtain ⟨_, _, _, _, _, shape⟩ := checkHead_shape s q c
    exact (UnitRests.of_reach (checkHead_reach s q c) (by rw [shape])).cadenceInv (inv p)
  | release q c due =>
    obtain ⟨_, _, _, shape⟩ := evaluateOffer_shape s q c
    exact (UnitRests.of_reach (evaluateOffer_reach s q c) (by rw [shape])).cadenceInv (inv p)
  | ageing q c due => exact inv p
  | cadence q due =>
    obtain rfl | rfl := Line.eq_or_opposite q p
    · exact cadenceExpire_cadenceInv s p due some (inv p)
    · exact (UnitRests.of_opposite (cadenceExpire_reach s q _)).cadenceInv (inv _)
  | take r executing inHand => exact ((takeRequest_request s r).unit p).cadenceInv (inv p)
  | goOn h executing inHand =>
    obtain within | ⟨u, e⟩ := goOn_request s h
    · exact (within.unit p).cadenceInv (inv p)
    · rw [e]
      exact fullReset_cadenceInv u p
  | command i f h means executing inHand =>
    obtain rests | e | e := command_unit s h p means
    · exact rests.cadenceInv (inv p)
    · rw [e]
      exact UnitRests.cadenceInv (s := flip s) ⟨rfl, rfl, rfl⟩ (flip_cadenceInv s p entries (inv p))
    · rw [e]
      exact ((setAgent_request (trafficReset s) _).unit p).cadenceInv (trafficReset_cadenceInv entries p)
  | copy begun refilling => exact (copyDone_unit s p).cadenceInv (inv p)
  | lease i editor due => exact (expireLease_unit s p i).cadenceInv (inv p)

end

theorem leaves_cadenceInv {s t : State} (h : s.EntriesInv ∧ ∀ p, s.CadenceInv p) (k : Leaves s t) (p : Line) :
    t.CadenceInv p := by
  obtain ⟨entries, inv⟩ := h
  cases k with
  | still => exact inv p
  | low => exact powerOnFrom_cadenceInv _ _ s p
  | rise straps wasLow => exact powerOnFrom_cadenceInv straps false s p
  | act awake a => exact act_cadenceInv entries inv a p

theorem tick_cadenceInv {s : State} {p : Line} (inv : s.CadenceInv p) : (tick s).CadenceInv p := by
  unfold tick
  split
  · exact inv
  · exact inv

/-- Settles O56: each act leaves a cadence unit and what its laws read, pays one of its entries, tests it or starts it
afresh. -/
theorem stepKeepsCadenceLaws : Obligations.StepKeepsCadenceLaws := fun _ _ entries inv stepped =>
  step_leads (pre := fun s => s.EntriesInv ∧ ∀ p, s.CadenceInv p) (fun _ _ _ h => h)
    (fun _ h p => tick_cadenceInv (h.2 p)) (fun _ _ => leaves_cadenceInv) ⟨entries, inv⟩ stepped

end Sys2Proof.Machine
end

section
/-! SUPPORT. The decisions that launch a frame of the screen's own (R109 to R112, R120, R121, Table 7-1): a cadence
frame, forced or opportunistic, and a service frame. -/

namespace Sys2Proof.Machine

section

variable {s : State} {p : Line}

/-! ## Orders 1 and 2 -/

theorem startLaunch_busy (s : State) (p : Line) (bytes : List Byte) (x : LaunchSource) :
    (startLaunch p bytes x s).txFree p = false := by
  unfold State.txFree startLaunch
  rw [setTx_tx, PerLine.get_set_same]
  rfl

/-- R111: a decision that starts a launch leaves no offer outstanding. -/
theorem decideOffer_starts {bytes : List Byte} {x : LaunchSource} {u : State}
    (starts : arbitrate p s = startLaunch p bytes x u) :
    decideOffer p s = (startLaunch p bytes x u).setOffers p 0 := by
  unfold decideOffer
  dsimp only
  rw [starts, startLaunch_busy]
  rfl

theorem arbitrate_forced {due : Time} {rest : List Time} (forced : (s.cadence.get p).forced = true)
    (owed : (s.cadence.get p).owed = due :: rest) : arbitrate p s = launchCadence p due rest s := by
  unfold arbitrate
  rw [forced, owed]

theorem arbitrate_service {e : ServiceEntry} {rest : List ServiceEntry}
    (unforced : (s.cadence.get p).forced = false ∨ (s.cadence.get p).owed = [])
    (service : s.service.get p = e :: rest) : arbitrate p s = launchService p e rest s := by
  unfold arbitrate
  rw [service]
  split
  · rename_i forced owed
    rcases unforced with h | h <;> simp_all
  · rfl

/-- R120, R121: the unit that a payment leaves, with its flag as the statements have it. -/
theorem paid_forced {u : Cadence} (forced : u.forced = true) (rest : List Time) :
    u.paid rest = { u with owed := rest, forced := decide (rest ≠ []), seq := u.seq + 1 } := by
  unfold Cadence.paid
  rw [forced]
  cases rest <;> rfl

theorem paid_unforced {u : Cadence} (forced : u.forced = false) (rest : List Time) :
    u.paid rest = { u with owed := rest, forced := false, seq := u.seq + 1 } := by
  unfold Cadence.paid
  rw [forced]
  rfl

/-- R120: a cadence launch, store by store. -/
theorem launchCadence_eq (s : State) (p : Line) (due : Time) (rest : List Time) :
    launchCadence p due rest s =
      { s with
        cadence := s.cadence.set p ((s.cadence.get p).paid rest)
        tx := s.tx.set p
          { s.tx.get p with
            launch := some
              { start := s.timebase
                bytes := withCheck (buildFrame 0xFFFFFFFF#32 s.active.identity 0x02#8 0 0 (s.cadence.get p).seq
                  (bytes32 due ++ [byteOf rest.length, (s.portPol p).dmax, 0x00#8, 0x00#8]))
                source := .cadence } } } := rfl

/-- Settles O19: the bytes of a built frame, the cadence frame of a FORCED line, and the oldest service frame. -/
theorem forcedCadenceThenServiceGoFirst : Obligations.ForcedCadenceThenServiceGoFirst := by
  refine ⟨fun _ => rfl, fun _ => rfl, fun _ _ _ _ _ _ _ => rfl, fun _ => rfl, ?_, ?_⟩
  · intro p due rest s may forced owed
    rw [exec_decision may, decideOffer_starts (arbitrate_forced forced owed), ← paid_forced forced]
    rfl
  · intro p e rest s may unforced service
    rw [exec_decision may, decideOffer_starts (arbitrate_service unforced service)]
    rfl

/-! ## Order 4 -/

theorem mem_classesDown (c : TrafficClass) : c ∈ classesDown := by revert c; decide

/-- R99, R101: the state in which every head has been found closed, by a decision of line `p`. -/
def State.allHeld (s : State) (p : Line) : State := classesDown.foldl (State.passedOver p) s

theorem allHeld_shape (s : State) (p : Line) : ∃ pa ct, s.allHeld p = { s with pacer := pa, counters := ct } :=
  passedOver_fold_shape p classesDown s

/-- R110: with no candidate before the heads and no head allowed, the arbiter comes to the owed entries. -/
theorem arbitrate_closed (none : s.NoEarlierCandidate p) (closed : s.Closed p classesDown) :
    arbitrate p s = scanHeads p [] (s.allHeld p) := by
  have passes := scanHeads_passes p [] classesDown (by decide) s closed
  rw [List.append_nil] at passes
  exact (arbitrate_heads none).trans passes

theorem allHeld_owed (s : State) (p : Line) : ((s.allHeld p).cadence.get p).owed = (s.cadence.get p).owed := by
  obtain ⟨_, _, shape⟩ := allHeld_shape s p
  rw [shape]

theorem decideOffer_opportunistic (none : s.NoEarlierCandidate p) (closed : s.Closed p classesDown) {due : Time}
    {rest : List Time} (owed : (s.cadence.get p).owed = due :: rest) :
    decideOffer p s = (launchCadence p due rest (s.allHeld p)).setOffers p 0 := by
  refine decideOffer_starts ((arbitrate_closed none closed).trans ?_)
  rw [scanHeads, allHeld_owed, owed]
  rfl

theorem decideOffer_nothing (none : s.NoEarlierCandidate p) (closed : s.Closed p classesDown)
    (free : s.txFree p = true) (owed : (s.cadence.get p).owed = []) :
    decideOffer p s = (s.allHeld p).setOffers p (s.offers.get p - 1) := by
  have quiet : arbitrate p s = s.allHeld p := by
    rw [arbitrate_closed none closed, scanHeads, allHeld_owed, owed]
  obtain ⟨_, _, shape⟩ := allHeld_shape s p
  have still : (s.allHeld p).txFree p = true := by
    rw [shape]
    exact free
  unfold decideOffer
  dsimp only
  rw [quiet, if_pos still, shape]

/-- What a decision with no head allowed leaves: the heads held, and besides only the transmitter, the cadence unit and
the offers. -/
theorem decideOffer_allHeld (none : s.NoEarlierCandidate p) (closed : s.Closed p classesDown)
    (free : s.txFree p = true) :
    ∃ tx ca of, decideOffer p s = { s.allHeld p with tx := tx, cadence := ca, offers := of } := by
  cases owed : (s.cadence.get p).owed with
  | nil => exact ⟨_, _, _, decideOffer_nothing none closed free owed⟩
  | cons due rest => exact ⟨_, _, _, decideOffer_opportunistic none closed owed⟩

end

/-- Settles O21: every head is held, and then the oldest owed entry is paid, or nothing is. -/
theorem opportunisticCadenceGoesLast : Obligations.OpportunisticCadenceGoesLast := by
  intro p s may none shut
  have run := exec_decision may
  obtain ⟨-, -, free, -⟩ := may
  have closed : s.Closed p classesDown := fun c _ => shut c
  obtain ⟨held, left, counts, -⟩ := passedOver_all p classesDown (by decide) s closed
  obtain ⟨pa, ct, shape⟩ := allHeld_shape s p
  have reach := decideOffer_reach s p
  obtain ⟨tx, ca, of, rests⟩ := decideOffer_allHeld none closed free
  refine ⟨decideOffer p s, run, fun due rest owed => ?_, fun owed => ?_, fun c empty => ?_,
    fun c queued => ?_, fun id other => ?_, reach.pacer, ?_⟩
  · have unforced : (s.cadence.get p).forced = false := none.1.resolve_right (by simp [owed])
    rw [decideOffer_opportunistic none closed owed, launchCadence_eq, shape, ← paid_unforced unforced]
    exact ⟨rfl, rfl, rfl⟩
  · rw [decideOffer_nothing none closed free owed, shape]
    exact ⟨rfl, rfl, rfl⟩
  · rw [rests]
    exact left c (.inr empty)
  · rw [rests]
    exact held c (mem_classesDown c) queued
  · rw [rests]
    exact counts id fun ⟨c, _, same⟩ => other ⟨c, same⟩
  · rw [rests, shape]

end Sys2Proof.Machine
end

section
/-! SUPPORT. A due cadence expiry in the words of the statement (R114, R117, R118, R119, R167, R168). -/

namespace Sys2Proof.Machine

section

variable (s : State) (p : Line)

/-- R109: an offer after a notice is one offer more. -/
theorem State.Notifies.offer {s t : State} {event : List Byte} (h : s.Notifies t event) (p : Line) :
    s.Notifies (offer p t) event := by
  have offers := offer_offers_le t p
  rw [offer_eq] at offers ⊢
  obtain ⟨advances, others, aimed⟩ := h
  refine ⟨advances, others, fun g target => ?_⟩
  obtain ⟨taken, full⟩ := aimed g target
  refine ⟨fun room => ?_, full⟩
  obtain ⟨queue, kept, offered⟩ := taken room
  exact ⟨queue, kept, fun idle => lt_of_lt_of_le (offered idle) (offers g.line)⟩

/-- R119: the FORCED test is the whole act of a unit at a flip that leaves its Tc. -/
theorem forcedTest_eq : forcedTest p s = cadenceFlip p (s.portPol p) s := (congrArg _ (if_pos rfl)).symm

theorem exec_cadenceExpiry {s : State} {p : Line} (awake : s.resetLow = false)
    (due : (s.cadence.get p).timer = .running s.timebase) :
    exec (.cadenceExpiry p) s = .next (cadenceExpire p s.timebase s) := by
  refine congrArg Host.Outcome.next ((awake_eq s _ awake).trans ?_)
  rw [due]
  exact if_pos rfl

theorem lineCode_eq : lineCode p = if p = .n then 0x00#8 else 0x01#8 := by cases p <;> rfl

/-- R118: an expiry writes the units, and by its notice the service queues, the offers and the counters. -/
theorem cadenceExpire_shape (due : Time) :
    ∃ ca sv of ct ns, cadenceExpire p due s =
      { s with cadence := ca, service := sv, offers := of, counters := ct, noticeSeq := ns } := by
  obtain room | full := Nat.lt_or_ge (s.cadence.get p).owed.length 8
  · obtain ⟨_, _, _, _, _, shape⟩ := forcedTest_shape (s.setCadence p (s.expiredUnit p due)) p
    rw [cadenceExpire_owes s p due room, offer_eq, shape]
    exact ⟨_, _, _, _, _, rfl⟩
  · obtain ⟨_, _, _, shape⟩ := notify_shape (s.slipCounted p due)
      (.cadenceSlip p (s.cadence.get p).owed.length) s.timebase
    rw [cadenceExpire_slips s p due full, offer_eq, shape]
    exact ⟨_, _, _, _, _, rfl⟩

/-- An expiry is offered to the arbiter after the unit has moved, which leaves the transmitters and withdraws no
offer. -/
theorem cadenceExpire_offered (due : Time) :
    ∃ u, cadenceExpire p due s = offer p u ∧ EgressReach p s u ∧ u.tx = s.tx ∧ s.offers.get p ≤ u.offers.get p := by
  have kept : ∀ m u : State, m.offers = s.offers → OffersNoMore m u p → s.offers.get p ≤ u.offers.get p :=
    fun m u same more => by
      obtain still | ⟨-, -, one⟩ := more
      · rw [still, same]
      · rw [one, same]
        exact Nat.le_succ _
  have marked := setCadence_reach s p (s.expiredUnit p due)
  obtain room | full := Nat.lt_or_ge (s.cadence.get p).owed.length 8
  · refine ⟨_, cadenceExpire_owes s p due room, marked.trans (forcedTest_reach _ p), (forcedTest_traffic _ p).tx, ?_⟩
    rw [forcedTest_eq]
    exact kept _ _ rfl (cadenceFlip_offers (s.setCadence p (s.expiredUnit p due)) p _ p).1
  · exact ⟨_, cadenceExpire_slips s p due full, (marked.trans (count_reach _ p _ _)).trans (notify_reach _ p _ _),
      (notify_traffic _ _ _).tx, kept _ _ rfl (notify_offers (s.slipCounted p due) _ _ p).1⟩

/-- R109: the arbiter of a free line that is UP is offered a decision at an expiry. -/
theorem cadenceExpire_offers (due : Time) (up : s.isUp p = true) (free : s.txFree p = true) :
    s.offers.get p < (cadenceExpire p due s).offers.get p := by
  obtain ⟨u, e, reach, tx, kept⟩ := cadenceExpire_offered s p due
  have idle : u.txFree p = true := by
    unfold State.txFree
    rwa [tx]
  have counted : (offer p u).offers.get p = u.offers.get p + 1 := by
    rw [offer_eq]
    exact offered_more ((reach.isUp p).trans up) idle
  rw [e, counted]
  exact Nat.lt_succ_of_le kept

theorem offer_counters : (offer p s).counters = s.counters := by
  rw [offer_eq]

/-! ## A debt below 8 -/

section

variable (due : Time) (room : (s.cadence.get p).owed.length < 8)

include room

theorem cadenceExpire_tests : cadenceExpire p due s =
    offer p (cadenceFlip p (s.portPol p) (s.setCadence p (s.expiredUnit p due))) := by
  rw [cadenceExpire_owes s p due room, forcedTest_eq]
  rfl

theorem expiredUnit_forces : (s.setCadence p (s.expiredUnit p due)).forces p ↔
    (s.cadence.get p).forced = false ∧ (s.portPol p).dmax.toNat ≤ (s.cadence.get p).owed.length + 1 := by
  unfold State.forces State.expiredUnit
  rw [setCadence_cadence, PerLine.get_set_same, if_pos room, List.length_append]
  rfl

/-- R119: an entry into FORCED is counted, with a notice of the debt. -/
theorem cadenceExpire_forced (forces : (s.setCadence p (s.expiredUnit p due)).forces p) :
    s.Notifies (cadenceExpire p due s) (NoticeEvent.cadenceForced p ((s.cadence.get p).owed.length + 1)).bytes ∧
      (cadenceExpire p due s).counters.read (.line p .forcedEntries) =
        (s.counters.read (.line p .forcedEntries)).add 1 := by
  obtain ⟨notifies, counted⟩ := cadenceFlip_notifies _ p (s.portPol p) forces
  have debt : ((s.setCadence p (s.expiredUnit p due)).cadence.get p).owed.length =
      (s.cadence.get p).owed.length + 1 := by
    unfold State.expiredUnit
    rw [setCadence_cadence, PerLine.get_set_same, if_pos room, List.length_append]
    rfl
  rw [debt] at notifies
  rw [cadenceExpire_tests s p due room, offer_counters]
  refine ⟨(notifies.of_eq rfl rfl rfl rfl rfl (fun _ => rfl) rfl (fun _ => rfl) fun _ => Nat.le_refl _).offer p, ?_⟩
  rw [counted, if_pos rfl]
  rfl

theorem cadenceExpire_unforced (rests : ¬ (s.setCadence p (s.expiredUnit p due)).forces p) :
    (cadenceExpire p due s).noticeSeq = s.noticeSeq ∧ (cadenceExpire p due s).counters = s.counters ∧
      (cadenceExpire p due s).service = s.service := by
  rw [cadenceExpire_tests s p due room, cadenceFlip_unforced _ p _ rests, offer_eq]
  exact ⟨rfl, rfl, rfl⟩

theorem cadenceExpire_counts : s.CountsOnly (cadenceExpire p due s) (CadenceMoved p) := by
  rw [cadenceExpire_tests s p due room]
  exact .trans (t := s.setCadence p _) (.of_eq rfl) ((cadenceFlip_counts _ p _).trans (.of_eq (offer_counters _ p)))

end

/-! ## A slip -/

/-- R119: at debt 8 an expiry is a slip, which is counted, with a notice of the debt. -/
theorem cadenceExpire_slip (due : Time) (full : 8 ≤ (s.cadence.get p).owed.length) :
    s.Notifies (cadenceExpire p due s) (NoticeEvent.cadenceSlip p (s.cadence.get p).owed.length).bytes ∧
      (cadenceExpire p due s).counters.read (.line p .slips) = (s.counters.read (.line p .slips)).add 1 ∧
      s.CountsOnly (cadenceExpire p due s) (fun id => id = .line p .slips ∨ ∃ q, id = .line q .noticeLost) := by
  have notifies : (s.slipCounted p due).Notifies (notify (.cadenceSlip p (s.cadence.get p).owed.length) s.timebase
      (s.slipCounted p due)) _ := notify_notifies _ _
  have lost := (notify_lost_offers (s.slipCounted p due) (.cadenceSlip p (s.cadence.get p).owed.length) s.timebase).1
  have counted : (s.slipCounted p due).counters = s.counters.add (.line p .slips) 1 := rfl
  rw [cadenceExpire_slips s p due full, offer_counters]
  refine ⟨State.Notifies.offer (notifies.of_eq (s := s) rfl rfl rfl rfl rfl (fun _ => rfl) rfl (fun q => ?_)
    fun _ => Nat.le_refl _) p, ?_, ?_⟩
  · rw [counted, Counters.read_add_ne _ _ (by simp)]
  · rw [lost _ (by simp), counted, Counters.read_add_same]
  · refine (State.CountsOnly.add (.of_eq rfl) (.inl rfl) counted).trans fun id other => ?_
    rw [offer_counters]
    exact lost id fun found => other (.inr found)

end

/-- Settles O27: below debt 8 the expiry is owed and the FORCED test made; at debt 8 it is a slip. -/
theorem cadenceExpiryOwesOrSlips : Obligations.CadenceExpiryOwesOrSlips := by
  intro p s awake due u next
  have reach := cadenceExpire_reach s p s.timebase
  have unit := cadenceExpire_unit s p s.timebase
  obtain ⟨_, _, _, _, _, shape⟩ := cadenceExpire_shape s p s.timebase
  refine ⟨_, exec_cadenceExpiry awake due, reach.cadence, fun room => ?_, fun full => ?_, fun id other => ?_,
    fun room => ?_, fun full => ?_, cadenceExpire_offers s p s.timebase, ?_⟩
  · have forces := expiredUnit_forces s p s.timebase room
    refine ⟨?_, fun unforced reached => ?_, fun rests => ?_⟩
    · rw [unit, if_pos room]
      unfold State.expiredUnit
      rw [if_pos room, List.length_append]
      rfl
    · rw [← lineCode_eq]
      exact cadenceExpire_forced s p s.timebase room (forces.2 ⟨unforced, reached⟩)
    · refine cadenceExpire_unforced s p s.timebase room fun found => ?_
      obtain ⟨unforced, reached⟩ := forces.1 found
      exact rests.elim (by simp [u, unforced]) (Nat.not_lt.2 reached)
  · obtain ⟨notifies, slips, -⟩ := cadenceExpire_slip s p s.timebase full
    rw [← lineCode_eq]
    refine ⟨?_, notifies, slips⟩
    rw [unit, if_neg (Nat.not_lt.2 full)]
    unfold State.expiredUnit
    rw [if_neg (Nat.not_lt.2 full)]
  · obtain room | full := Nat.lt_or_ge u.owed.length 8
    · exact cadenceExpire_counts s p s.timebase room id fun moved => other (moved.imp_right .inr)
    · obtain ⟨-, -, counts⟩ := cadenceExpire_slip s p s.timebase full
      exact counts id fun moved => other (.inr moved)
  · exact cadenceExpire_counts s p s.timebase room _ (by simp [CadenceMoved])
  · obtain ⟨-, -, counts⟩ := cadenceExpire_slip s p s.timebase full
    exact counts _ (by simp)
  · rw [shape]

end Sys2Proof.Machine
end

section
/-! SUPPORT. The taking of a request (R129 to R136): the context that it is judged in or given, and the reply that ends
it at once. -/

namespace Sys2Proof.Machine

/-! ## Replies handed over -/

/-- R114: the reply `frame` is handed to the service queue of line `l`, which takes it with an offer, or it is lost and
counted. -/
def State.HandsReply (s t : State) (l : Line) (frame : List Byte) : Prop :=
  (s.serviceTakes l = true →
    t.service = s.service.set l (s.service.get l ++
      [{ frame := frame, sort := .reply, builder := .agent, awaited := false }]) ∧
    t.offers = s.offered l ∧ t.counters = s.counters) ∧
  (s.serviceTakes l = false →
    t.service = s.service ∧ t.offers = s.offers ∧ t.counters = s.counters.add (.line l .replyLost) 1)

section

variable (s : State)

theorem sendReply_hands (l : Line) (frame : List Byte) : s.HandsReply (sendReply l frame false s) l frame := by
  unfold sendReply
  refine ⟨fun takes => ?_, fun full => ?_⟩
  · rw [enqueue_taken s l _ takes, offer_eq]
    exact ⟨rfl, rfl, rfl⟩
  · rw [enqueue_lost s l _ full]
    exact ⟨rfl, rfl, rfl⟩

/-- R114, R128: a request that ends with a reply: the reply is handed over, and the agent goes on. -/
theorem finished_effects (l : Line) (frame : List Byte) :
    let t := nextRequest (sendReply l frame false s)
    s.HandsReply t l frame ∧ t.agent = s.agent.afterFinish ∧
      t = { s with agent := t.agent, service := t.service, offers := t.offers, counters := t.counters } := by
  have hands := sendReply_hands s l frame
  obtain ⟨sv, of, ct, shape⟩ := sendReply_shape s l frame false
  rw [shape] at hands ⊢
  exact ⟨hands, rfl, rfl⟩

/-! ## The context of a request -/

theorem exec_requestTake {s : State} {r : Request} (awake : s.resetLow = false)
    (executing : s.agent.state = .executing) (inHand : s.agent.hand = .taken r) :
    exec .requestTake s = .next (takeRequest r s) := by
  refine congrArg Host.Outcome.next ((awake_eq s _ awake).trans ?_)
  rw [executing, inHand]

/-- R130: the context that holds a key is the first one in use that holds it. -/
theorem findContext_known {s : State} {i : Fin 4} {c : Context} (held : s.contexts[i] = some c)
    (first : ∀ j < i, ∀ d, s.contexts[j] = some d → d.src ≠ c.src ∨ d.line ≠ c.line) :
    s.findContext c.src c.line = some i := by
  unfold State.findContext
  rw [← Fin.find?_eq_find?_finRange, Fin.find?_eq_some_iff]
  refine ⟨by simp [held], fun j before => ?_⟩
  cases other : s.contexts[j] with
  | none => rfl
  | some d => simpa [Decidable.imp_iff_not_or] using first j before d other

theorem findContext_stranger {s : State} {src : StationId} {line : Line}
    (unknown : ∀ (j : Fin 4) d, s.contexts[j] = some d → d.src ≠ src ∨ d.line ≠ line) :
    s.findContext src line = none := by
  unfold State.findContext
  rw [← Fin.find?_eq_find?_finRange, Fin.find?_eq_none_iff]
  intro j
  cases other : s.contexts[j] with
  | none => simp
  | some d => simpa [Decidable.imp_iff_not_or] using unknown j d other

/-- R132: a stranger is given the lowest FREE context. -/
theorem freeContext_eq {s : State} {i : Fin 4} (free : s.contexts[i] = none)
    (lowest : ∀ j < i, s.contexts[j].isSome = true) : s.freeContext = some i := by
  unfold State.freeContext
  rw [← Fin.find?_eq_find?_finRange, Fin.find?_eq_some_iff]
  refine ⟨by simp [free], fun j before => ?_⟩
  simpa using lowest j before

theorem freeContext_none {s : State} (used : ∀ j : Fin 4, s.contexts[j].isSome = true) : s.freeContext = none := by
  unfold State.freeContext
  rw [← Fin.find?_eq_find?_finRange, Fin.find?_eq_none_iff]
  intro j
  simpa using used j

/-- R132: with no FREE context it is given that of the least recently active READER. -/
theorem evictable_eq {s : State} {i : Fin 4} {newer older : List (Fin 4)} (reader : s.isEditor i = false)
    (recency : s.recency = newer ++ i :: older) (editors : ∀ j ∈ older, s.isEditor j = true) :
    s.evictable = some i := by
  have passed : older.reverse.find? (fun j => !s.isEditor j) = none :=
    List.find?_eq_none.2 fun j inside => by simp [editors j (List.mem_reverse.1 inside)]
  unfold State.evictable
  rw [recency, List.reverse_append, List.reverse_cons, List.append_assoc, List.find?_append, passed]
  simp [reader]

/-- R131: context `i` stands as `c` and is the most recently active. -/
def State.withContext (s : State) (i : Fin 4) (c : Context) : State :=
  { s with recency := i :: s.recency.filter (· ≠ i), contexts := s.contexts.set i.val (some c) i.isLt }

theorem withContext_context (i : Fin 4) (c : Context) : (s.withContext i c).contexts[i] = some c :=
  Vector.getElem_set_self _

theorem withContext_context_ne {i j : Fin 4} (c : Context) (other : j ≠ i) :
    (s.withContext i c).contexts[j] = s.contexts[j] := by
  unfold State.withContext
  rw [getElem_set_row, if_neg other]

theorem withContext_self {s : State} {i : Fin 4} {c : Context} (held : s.contexts[i] = some c) :
    touch i s = s.withContext i c := by
  unfold touch State.withContext
  have same : s.contexts.set i.val (some c) i.isLt = s.contexts := by
    rw [← held]
    exact Vector.set_getElem_self _
  rw [same]

theorem withContext_set (i : Fin 4) (c d : Context) :
    (s.withContext i c).setContext i (some d) = s.withContext i d := by
  unfold State.withContext State.setContext
  dsimp only
  rw [Vector.set_set]

theorem onRole_withContext (i : Fin 4) (c : Context) (f : Role → Role) :
    onRole i f (s.withContext i c) = s.withContext i { c with role := f c.role } := by
  unfold onRole
  rw [withContext_context]
  exact withContext_set s i c _

/-- R129, R133: a request whose key a context holds is judged in it. -/
theorem takeRequest_known {s : State} {r : Request} {i : Fin 4} {c : Context} (held : s.contexts[i] = some c)
    (src : c.src = wordAt r.frame 4) (line : c.line = r.line)
    (first : ∀ j < i, ∀ d, s.contexts[j] = some d → d.src ≠ c.src ∨ d.line ≠ c.line) :
    takeRequest r s = judgeRequest i c r (s.withContext i c) := by
  have found := findContext_known held first
  rw [src, line] at found
  unfold takeRequest
  dsimp only
  rw [found]
  dsimp only
  rw [held, withContext_self held]

theorem judgeSequence_stale {s l : Half} (late : 32768 < (s - l).toNat) : judgeSequence s l = .stale := by
  have other : s ≠ l := fun same => by simp [same] at late
  unfold judgeSequence
  rw [if_neg other, if_neg (Nat.not_le.2 late)]

theorem judgeSequence_fresh {s l : Half} (later : 1 ≤ (s - l).toNat) (near : (s - l).toNat ≤ 32768) :
    judgeSequence s l = .fresh := by
  have other : s ≠ l := fun same => by simp [same] at later
  unfold judgeSequence
  rw [if_neg other, if_pos near]

theorem renew_eq (now : Time) (role : Role) : role.renew now =
    match role with
    | .reader => .reader
    | .editor length _ => .editor length (.running (now + BitVec.ofNat 32 (length.toNat * 10000))) := by
  cases role <;> rfl

/-- R134: a duplicate is answered with the stored reply. -/
theorem replay_withContext {i : Fin 4} {c : Context} {answered : List Byte} (stored : c.reply = some answered)
    (line : Line) :
    replay i line (s.withContext i c) =
      nextRequest (sendReply line answered false
        (s.withContext i { c with role := c.role.renew s.timebase })) := by
  unfold replay
  dsimp only
  rw [onRole_withContext, withContext_context]
  simp only [Option.bind_some, stored]
  rfl

end

/-- Settles O29: a duplicate hands over the stored reply, a stale request the expected sequence. -/
theorem repeatedRequestsAreNotExecuted : Obligations.RepeatedRequestsAreNotExecuted := by
  intro r i c answered s awake executing inHand held src line first repeated
  have run := exec_requestTake awake executing inHand
  rw [takeRequest_known held src line first] at run
  obtain ⟨d, context, ends⟩ : ∃ d : Context,
      d = (if halfAt r.frame 12 = c.lastSeq then { c with role := c.role.renew s.timebase } else c) ∧
      judgeRequest i c r (s.withContext i c) =
        nextRequest (sendReply r.line answered false (s.withContext i d)) := by
    refine ⟨_, rfl, ?_⟩
    obtain ⟨duplicate, stored⟩ | ⟨late, built⟩ := repeated
    · rw [if_pos duplicate, judgeRequest, duplicate, judgeSequence, if_pos rfl]
      exact replay_withContext s stored r.line
    · have other : halfAt r.frame 12 ≠ c.lastSeq := fun same => by simp [same] at late
      rw [if_neg other, judgeRequest, judgeSequence_stale late, built]
      rfl
  rw [ends] at run
  obtain ⟨⟨taken, lost⟩, agent, shape⟩ := finished_effects (s.withContext i d) r.line answered
  have contexts : (nextRequest (sendReply r.line answered false (s.withContext i d))).contexts =
      (s.withContext i d).contexts := by rw [shape]
  refine ⟨_, run, ?_, taken, lost, agent, by rw [shape]; rfl, fun j other => ?_, ?_⟩
  · rw [contexts, withContext_context, context]
    exact congrArg (fun role => some (if halfAt r.frame 12 = c.lastSeq then { c with role := role } else c))
      (renew_eq s.timebase c.role)
  · rw [contexts]
    exact withContext_context_ne s d other
  · rw [shape]
    rfl

/-! ## A new request -/

section

variable {s : State} {r : Request} {i : Fin 4}

/-- R129, R132: a new request is taken in the context that is given to it, which then stands with its lease renewed. -/
theorem takeRequest_given {c : Context} (gives : s.GivesContext r i c) :
    ∃ d, takeRequest r s = beginRequest i r (s.withContext i d) ∧
      c = { d with role := d.role.renew s.timebase } := by
  obtain ⟨d, held, src, line, first, later, near, given⟩ | ⟨unknown, place, given⟩ := gives
  · refine ⟨{ d with lastSeq := halfAt r.frame 12 }, ?_, given⟩
    rw [takeRequest_known held src line first, judgeRequest, judgeSequence_fresh later near]
    dsimp only
    rw [withContext_set]
  · refine ⟨newContext (wordAt r.frame 4) r.line (halfAt r.frame 12), ?_, given⟩
    have found : s.freeContext.or s.evictable = some i := by
      obtain ⟨free, lowest⟩ | ⟨used, reader, newer, older, recency, editors⟩ := place
      · rw [freeContext_eq free lowest, Option.some_or]
      · rw [freeContext_none used, Option.none_or, evictable_eq reader recency editors]
    unfold takeRequest
    dsimp only
    rw [findContext_stranger unknown, found]
    rfl

/-- R139, R140: an answer that carries no FULL reset is stored in the context of the request, and ends it. -/
theorem answer_stored {u : State} {h : InHand} {d : Context} (status : Byte) (rests : h.full = false)
    (held : u.contexts[h.ctx] = some d) {frame : List Byte}
    (built : frame = replyFrame h.src h.flow h.seq (replyPayload status u.store.generation h.results) u) :
    answer status h u =
      nextRequest (sendReply h.line frame false (u.setContext h.ctx (some { d with reply := some frame }))) := by
  subst built
  unfold answer
  rw [rests, held]
  rfl

theorem replyFrame_withContext (s : State) (i : Fin 4) (d : Context) (src : StationId) (flow seq : Half)
    (payload : List Byte) : replyFrame src flow seq payload (s.withContext i d) = replyFrame src flow seq payload s :=
  rfl

/-- R136: a request whose payload does not parse is answered MALFORMED. -/
theorem beginRequest_malformed {d : Context} (malformed : parsePayload (payloadOf r.frame) = none)
    {frame : List Byte}
    (built : frame = replyFrame (wordAt r.frame 4) (halfAt r.frame 10) (halfAt r.frame 12)
      (replyPayload requestMalformed s.store.generation []) s) :
    beginRequest i r (s.withContext i d) = nextRequest (sendReply r.line frame false
      (s.withContext i { d with role := d.role.renew s.timebase, reply := some frame })) := by
  have now : (s.withContext i d).timebase = s.timebase := rfl
  unfold beginRequest
  rw [malformed, now, onRole_withContext]
  dsimp only
  refine (answer_stored (frame := frame) requestMalformed rfl (withContext_context s i _) ?_).trans ?_
  · rw [built, replyFrame_withContext]
    rfl
  · rw [withContext_set]

end

/-- Settles O30: the malformed request stores its reply in the context given to it, and hands it over. -/
theorem malformedRequestIsAnswered : Obligations.MalformedRequestIsAnswered := by
  intro r i c s awake executing inHand gives malformed reply
  have built : reply = replyFrame (wordAt r.frame 4) (halfAt r.frame 10) (halfAt r.frame 12)
    (replyPayload requestMalformed s.store.generation []) s := rfl
  clear_value reply
  obtain ⟨d, taken, given⟩ := takeRequest_given gives
  have run := exec_requestTake awake executing inHand
  rw [taken, beginRequest_malformed malformed built] at run
  have stored : ({ d with role := d.role.renew s.timebase, reply := some reply } : Context) =
      { c with reply := some reply } := by rw [given]
  rw [stored] at run
  obtain ⟨⟨taken, lost⟩, agent, shape⟩ := finished_effects (s.withContext i { c with reply := some reply }) r.line reply
  refine ⟨_, run, ?_, taken, lost, agent, ?_, ?_⟩
  · rw [shape]
    rfl
  · rw [shape]
    rfl
  · rw [shape]
    rfl

end Sys2Proof.Machine
end

section
/-! SUPPORT. The agent, the contexts and the recency order through the acts of the other blocks (R126, R128, R130):
reception offers the agent a request at most, and the acts on a request are named one by one. -/

namespace Sys2Proof.Machine

/-! ## The agent at an offered request -/

/-- Table 8-2: the agent is WAITING exactly with nothing in hand, and then no request waits. -/
def Agent.Sound (a : Agent) : Prop :=
  (a.state = .waiting ↔ a.hand = .none) ∧ (a.state = .waiting → a.queue = [])

theorem afterFinish_sound (a : Agent) : a.afterFinish.Sound := by
  unfold Agent.afterFinish
  split <;> simp [Agent.Sound]

theorem afterFinish_notWaitingForCopy (a : Agent) : a.afterFinish.state ≠ .commitWait := by
  unfold Agent.afterFinish
  split <;> simp

/-- An agent that is not WAITING and has something in hand stands as Table 8-2 has it. -/
theorem Agent.sound_of_busy {a : Agent} (busy : a.state ≠ .waiting) (inHand : a.hand ≠ .none) : a.Sound :=
  ⟨⟨fun waiting => absurd waiting busy, fun none => absurd none inHand⟩, fun waiting => absurd waiting busy⟩

/-- R126, R128: from `a` to `b` requests have been offered: Table 8-2 goes on to hold, and a wait for a copy stands. -/
structure Agent.Receives (a b : Agent) : Prop where
  sound : a.Sound → b.Sound
  waits : b.state = .commitWait ↔ a.state = .commitWait
  hand : a.state = .commitWait → b.hand = a.hand

namespace Agent.Receives

variable {a b c : Agent}

theorem refl (a : Agent) : a.Receives a := ⟨id, .rfl, fun _ => rfl⟩

theorem trans (h : a.Receives b) (k : b.Receives c) : a.Receives c where
  sound := k.sound ∘ h.sound
  waits := k.waits.trans h.waits
  hand := fun waits => (k.hand (h.waits.2 waits)).trans (h.hand waits)

/-- R128: a request joins the queue of an agent that is not WAITING. -/
theorem queued (busy : a.state ≠ .waiting) (q : List Request) : a.Receives { a with queue := q } where
  sound := fun ⟨waiting, _⟩ => ⟨waiting, fun idle => absurd idle busy⟩
  waits := .rfl
  hand := fun _ => rfl

/-- R128: a WAITING agent takes the request that joins its queue. -/
theorem taken (waiting : a.state = .waiting) (q : List Request) :
    a.Receives { a with queue := q : Agent }.afterFinish where
  sound := fun _ => afterFinish_sound _
  waits := ⟨fun waits => absurd waits (afterFinish_notWaitingForCopy _), fun waits => by simp [waiting] at waits⟩
  hand := fun waits => by simp [waiting] at waits

end Agent.Receives

/-! ## Acts that leave the contexts as they are -/

/-- From `s` to `t` the contexts and their recency order stand, and the agent has been offered requests at most. -/
structure SessionRests (s t : State) : Prop where
  contexts : t.contexts = s.contexts
  recency : t.recency = s.recency
  agent : s.agent.Receives t.agent

namespace SessionRests

variable {s t u : State}

theorem of_eq (contexts : t.contexts = s.contexts) (recency : t.recency = s.recency) (agent : t.agent = s.agent) :
    SessionRests s t :=
  ⟨contexts, recency, agent ▸ .refl s.agent⟩

theorem refl (s : State) : SessionRests s s := .of_eq rfl rfl rfl

theorem trans (h : SessionRests s t) (k : SessionRests t u) : SessionRests s u :=
  ⟨k.contexts.trans h.contexts, k.recency.trans h.recency, h.agent.trans k.agent⟩

theorem of_egress {p : Line} (h : EgressReach p s t) : SessionRests s t := .of_eq h.contexts h.recency h.agent

end SessionRests

section

variable (s : State) (l : Line)

theorem leaveClassification_session : SessionRests s (leaveClassification l s) := by
  rw [leaveClassification_eq]
  exact .of_eq rfl rfl rfl

theorem headerComplete_session : SessionRests s (headerComplete l s) := by
  have judged : ∀ f, SessionRests s (classifierHeader l f s) := fun f => by
    obtain ⟨_, _, _, shape⟩ := classifierHeader_shape s l f
    rw [shape]
    exact .of_eq rfl rfl rfl
  exact (judged _).trans (.of_eq rfl rfl rfl)

theorem inspectPending_session (f : HeaderFacts) (window : List Byte) :
    SessionRests s (inspectPending l f window s) := by
  rw [inspectPending_eq]
  obtain ⟨_, _, _, _, _, _, applied⟩ := applyJudgement_shape s l f
    ((s.store.bank (s.cls.get l).bank).judge l f window) (judge_decided _ _ _ _)
  obtain ⟨-, -, captured⟩ := capturing_effects
    (applyJudgement l f ((s.store.bank (s.cls.get l).bank).judge l f window) s) l f window
    ((s.store.bank (s.cls.get l).bank).judge l f window).trigger
  rw [captured, applied]
  exact .of_eq rfl rfl rfl

theorem inspectionComplete_session : SessionRests s (inspectionComplete l s) := by
  have inspected : ∀ window, SessionRests s (classifierInspect l window s) := fun window => by
    unfold classifierInspect
    dsimp only
    refine .trans ?_ (leaveClassification_session _ l)
    split
    · exact .of_eq rfl rfl rfl
    · exact inspectPending_session s l _ window
    · exact .refl s
  exact (inspected _).trans (.of_eq rfl rfl rfl)

theorem frameByte_session (b : Byte) (bad : Bool) : SessionRests s (frameByte l b bad s) := by
  have pushed : SessionRests s (s.withFrameByte l b bad) := .of_eq rfl rfl rfl
  rw [frameByte_eq]
  split
  · exact pushed.trans (headerComplete_session _ l)
  · split
    · exact pushed.trans (inspectionComplete_session _ l)
    · exact pushed

theorem frameAbort_session : SessionRests s (frameAbort l s) := by
  rw [frameAbort_eq]
  exact .of_eq rfl rfl rfl

theorem queueEntry_session (d : Descriptor) (bytes : List Byte) : SessionRests s (queueEntry l d bytes s) := by
  rw [queueEntry_eq]
  split
  · obtain ⟨_, _, _, _, _, shape⟩ := newHead_shape (s.joined l d bytes) l.opposite d.cls
    rw [shape]
    exact .of_eq rfl rfl rfl
  · exact .of_eq rfl rfl rfl

/-- R126, R128: an offered request is refused, joins the queue, or is taken by a WAITING agent. -/
theorem offerRequest_session (frame : List Byte) : SessionRests s (offerRequest l frame s) := by
  cases admitted : s.active.admits (wordAt frame 4) with
  | false =>
    rw [offerRequest_refused s l frame admitted]
    exact .of_eq rfl rfl rfl
  | true =>
    obtain room | full := Nat.lt_or_ge s.agent.queue.length 4
    · rw [offerRequest_accepted s l frame admitted room]
      refine ⟨rfl, rfl, ?_⟩
      dsimp only
      split
      · exact .taken ‹_› _
      · exact .queued ‹_› _
    · rw [offerRequest_overflow s l frame admitted full]
      exact .of_eq rfl rfl rfl

theorem endUnmarked_session (v : EndVerdict) (bytes : List Byte) : SessionRests s (endUnmarked l v bytes s) := by
  unfold endUnmarked
  dsimp only
  split
  · split
    · exact .trans (t := s.setCls l _) (.of_eq rfl rfl rfl) (queueEntry_session _ l _ bytes)
    · exact .refl s
    · rw [dropReservation_giveBack]
      exact .of_eq rfl rfl rfl
  · split
    · exact offerRequest_session s l bytes
    · exact .of_eq rfl rfl rfl
    · exact .of_eq rfl rfl rfl
  · exact .of_eq rfl rfl rfl
  · exact .refl s
  · exact .refl s

theorem holdSlot_session : SessionRests s (holdSlot l s) := by
  obtain ⟨_, _, _, _, _, shape⟩ := holdSlot_shape s l
  rw [shape]
  exact .of_eq rfl rfl rfl

theorem classifierEnd_session (v : EndVerdict) (bytes : List Byte) : SessionRests s (classifierEnd l v bytes s) := by
  cases marked : (s.cls.get l).resetMark with
  | true =>
    rw [classifierEnd_marked s l marked]
    exact .of_eq rfl rfl rfl
  | false =>
    have left : SessionRests s (leaveIfJudging l s) := by
      rw [leaveIfJudging_eq]
      exact .of_eq rfl rfl rfl
    have ended := left.trans (endUnmarked_session _ l v bytes)
    by_cases good : v = .good
    · subst good
      rw [classifierEnd_good s l marked]
      exact ended.trans (.trans (holdSlot_session _ l) (.of_eq rfl rfl rfl))
    · rw [classifierEnd_failed s l marked good, dropSlot_eq]
      exact ended.trans (.of_eq rfl rfl rfl)

theorem frameEnd_session : SessionRests s (frameEnd l s) := by
  by_cases inspect : (s.port.get l).rx.state = .inspect
  · rw [frameEnd_inspect s l inspect]
    refine (inspectionComplete_session s l).trans (.trans (t := State.ended _ l _) ?_ (classifierEnd_session _ l _ _))
    exact .of_eq rfl rfl rfl
  · rw [frameEnd_eq s l inspect]
    exact .trans (t := s.ended l _) (.of_eq rfl rfl rfl) (classifierEnd_session _ l _ _)

theorem delimit_session (sym : Symbol) : SessionRests s (delimit l sym s) := by
  obtain ⟨-, e | e⟩ | ⟨-, ⟨b, bad, e⟩ | e | e | e⟩ := delimit_cases s l sym <;> rw [e]
  · exact .refl s
  · exact .of_eq rfl rfl rfl
  · exact frameByte_session s l b bad
  · exact frameEnd_session s l
  · exact frameAbort_session s l
  · exact (frameAbort_session s l).trans (.of_eq rfl rfl rfl)

end

/-! ## What one command can do to a session -/

/-- The ways in which one command leaves the agent, the contexts and the phase of the table store: as they were but for
an offered request, at power-on, or by an act of the agent. -/
inductive SessionMove (s : State) : State → Prop
  | rests {t : State} (session : SessionRests s t) (store : StoreRests s t) : SessionMove s t
  | reset (straps : BitVec 6) (u : State) (low : Bool) : SessionMove s { powerOnFrom straps u with resetLow := low }
  | take (r : Request) (executing : s.agent.state = .executing) (inHand : s.agent.hand = .taken r) :
      SessionMove s (takeRequest r s)
  | goOn (h : InHand) (executing : s.agent.state = .executing) (inHand : s.agent.hand = .request h) :
      SessionMove s (goOn h s)
  | command (i : Instr) (f : InHand → State → State) (h : InHand) (means : commandMeaning i = some f)
      (executing : s.agent.state = .executing) (inHand : s.agent.hand = .request h) (toRun : h.toRun ≠ []) :
      SessionMove s (f h s)
  | copied (begun : Time) (refilling : s.store.phase = .refilling begun) : SessionMove s (copyDone s)
  | expired (i : Fin 4) (editor : s.editor = some i) : SessionMove s (expireLease i s)

namespace SessionMove

variable {s t : State}

theorem still (s : State) : SessionMove s s := .rests (.refl s) (.refl s)

theorem of_egress {p : Line} (h : EgressReach p s t) : SessionMove s t := .rests (.of_egress h) (.of_egress h)

theorem of_awake {f : State → State} (moves : SessionMove s (f s)) : SessionMove s (awake f s) := by
  unfold awake
  split
  · exact still s
  · exact moves

theorem of_when {c : Prop} [Decidable c] (moves : SessionMove s t) : SessionMove s (if c then t else s) := by
  split
  · exact moves
  · exact still s

end SessionMove

section

variable (s : State)

theorem lineDown_session (l : Line) : SessionMove s (lineDown l s) := by
  rw [lineDown_eq]
  split
  · exact .reset _ _ _
  · rename_i kept
    have closed : SessionRests s (s.lineClosed l) := by
      obtain ⟨_, _, _, _, _, shape⟩ := lineClosed_shape s l
      rw [shape]
      exact .of_eq rfl rfl rfl
    have store := lineDown_rests s l
    rw [lineDown_eq, if_neg kept] at store
    obtain rests | ⟨u, resets⟩ := store
    · exact .rests (closed.trans (.of_egress (egressDown_reach _ l))) rests
    · rw [resets]
      exact .reset _ _ _

theorem receive_session (l : Line) (sym : Symbol) : SessionMove s (receive l sym s) := by
  obtain e | ⟨p, -, -, -, e⟩ | e | ⟨-, e⟩ | ⟨-, e⟩ := receive_cases s l sym <;> rw [e]
  · exact .still s
  · exact .rests (.of_eq rfl rfl rfl) (.of_eq rfl rfl)
  · have up := egressUp_reach (s.setPort l
      { s.port.get l with line := .up, alignCount := 16, errorCount := 0, cleanCount := 0 }) l
    exact .rests (.of_eq up.contexts up.recency up.agent) (.of_eq up.straps up.store)
  · exact lineDown_session s l
  · exact .rests (.trans (t := s.setPort l _) (.of_eq rfl rfl rfl) (delimit_session _ l sym))
      (.trans (t := s.setPort l _) (.of_eq rfl rfl) (delimit_rests _ l sym))

theorem completeLaunch_session (p : Line) (x : Launch) : SessionMove s (completeLaunch p x s) := by
  cases awaited : x.source.awaited with
  | false => exact .of_egress (completeLaunch_reach s p x awaited)
  | true =>
    unfold completeLaunch
    simp only [awaited, if_true]
    exact .reset _ _ _

theorem exec_command_session {i : Instr} {f : InHand → State → State} (means : commandMeaning i = some f) {t : State}
    (next : exec i s = .next t) : SessionMove s t := by
  obtain ⟨code, ops, e⟩ := exec_command means s
  obtain rfl := Host.Outcome.next.inj (e.symm.trans next)
  refine .of_awake ?_
  obtain k | ⟨h, executing, inHand, front, k⟩ := runCommand_cases s code ops f <;> rw [k]
  · exact .still s
  · exact .command i f h means executing inHand fun none => by simp [none] at front

theorem exec_session {i : Instr} {t : State} (next : exec i s = .next t) : SessionMove s t := by
  cases i with
  | resetnAssert =>
    obtain rfl := Host.Outcome.next.inj next
    exact .reset _ _ _
  | resetnRelease straps =>
    obtain rfl := Host.Outcome.next.inj next
    exact .of_when (.reset straps s false)
  | symbolReceived l sym =>
    obtain rfl := Host.Outcome.next.inj next
    exact .of_awake (receive_session s l sym)
  | egressDecision p =>
    obtain rfl := Host.Outcome.next.inj next
    exact .of_awake (.of_when (.of_egress (decideOffer_reach s p)))
  | launchCompletion p =>
    obtain rfl := Host.Outcome.next.inj next
    refine .of_awake ?_
    split
    · exact completeLaunch_session s p _
    · exact .still s
  | residenceExpiry p c =>
    obtain rfl := Host.Outcome.next.inj next
    exact .of_awake (.of_egress (checkHead_reach s p c))
  | windowRelease p c =>
    obtain rfl := Host.Outcome.next.inj next
    exact .of_awake (.of_when (.of_egress (evaluateOffer_reach s p c)))
  | ageingEvent p c =>
    obtain rfl := Host.Outcome.next.inj next
    exact .of_awake (.of_when (.of_egress (setLane_reach s p c _)))
  | cadenceExpiry p =>
    obtain rfl := Host.Outcome.next.inj next
    refine .of_awake ?_
    split
    · exact .of_when (.of_egress (cadenceExpire_reach s p _))
    · exact .still s
  | requestTake =>
    obtain rfl := Host.Outcome.next.inj next
    refine .of_awake ?_
    split
    · exact .take _ ‹_› ‹_›
    · exact .goOn _ ‹_› ‹_›
    · exact .still s
  | copyBackCompletion =>
    obtain rfl := Host.Outcome.next.inj next
    refine .of_awake ?_
    split
    · exact .copied _ ‹_›
    · exact .still s
    · exact .still s
  | leaseExpiry =>
    obtain rfl := Host.Outcome.next.inj next
    refine .of_awake ?_
    split
    · exact .of_when (.expired _ ‹_›)
    · exact .still s
  | openSession ops | closeSession ops | rd ops | wr ops | fill ops | commit ops | revert ops | stat ops | capt ops
  | free ops | query ops | resetCounters | resetTraffic | resetFull =>
    exact exec_command_session s rfl next

end

end Sys2Proof.Machine
end

section
/-! SUPPORT. The contexts and the agent through the acts on a request (R129 to R145): which keys and roles the contexts
keep, what becomes of the agent, and what a command can do to a session, said once for both invariants of a session. -/

namespace Sys2Proof.Machine

/-! ## Keys and roles of the contexts -/

/-- R130: the key of context `i`, while it is in use. -/
def State.keyOf (s : State) (i : Fin 4) : Option (StationId × Line) :=
  s.contexts[i].map fun c => (c.src, c.line)

/-- The role is that of an EDITOR. -/
def Role.isEditor : Role → Bool
  | .editor _ _ => true
  | .reader => false

theorem Context.isEditor_eq (c : Context) : c.isEditor = c.role.isEditor := by
  unfold Context.isEditor
  cases c.role <;> rfl

theorem isEditor_eq (s : State) (i : Fin 4) : s.isEditor i = s.contexts[i].any Context.isEditor := by
  unfold State.isEditor
  cases s.contexts[i] <;> rfl

theorem keyOf_some {s : State} {i : Fin 4} {c : Context} (held : s.contexts[i] = some c) :
    s.keyOf i = some (c.src, c.line) := by
  rw [State.keyOf, held]
  rfl

theorem isEditor_some {s : State} {i : Fin 4} {c : Context} (held : s.contexts[i] = some c) :
    s.isEditor i = c.isEditor := by
  rw [isEditor_eq, held]
  rfl

theorem keyOf_isSome (s : State) (i : Fin 4) : (s.keyOf i).isSome = s.contexts[i].isSome := Option.isSome_map

theorem keyOf_congr {s t : State} (contexts : t.contexts = s.contexts) (i : Fin 4) : t.keyOf i = s.keyOf i := by
  rw [State.keyOf, contexts]
  rfl

theorem isEditor_congr {s t : State} (contexts : t.contexts = s.contexts) (i : Fin 4) :
    t.isEditor i = s.isEditor i := by
  rw [isEditor_eq, isEditor_eq, contexts]

section

variable (s : State) (i j : Fin 4)

theorem keyOf_setContext (x : Option Context) :
    (s.setContext i x).keyOf j = if j = i then x.map (fun c => (c.src, c.line)) else s.keyOf j := by
  rw [State.keyOf, setContext_contexts, getElem_set_row, apply_ite (Option.map _)]
  rfl

theorem isEditor_setContext (x : Option Context) :
    (s.setContext i x).isEditor j = if j = i then x.any Context.isEditor else s.isEditor j := by
  rw [isEditor_eq, isEditor_eq, setContext_contexts, getElem_set_row, apply_ite (Option.any _)]

theorem withContext_keyOf (c : Context) :
    (s.withContext i c).keyOf j = if j = i then some (c.src, c.line) else s.keyOf j :=
  keyOf_setContext s i j (some c)

theorem withContext_isEditor (c : Context) :
    (s.withContext i c).isEditor j = if j = i then c.isEditor else s.isEditor j :=
  isEditor_setContext s i j (some c)

theorem onRole_keyOf (f : Role → Role) : (onRole i f s).keyOf j = s.keyOf j := by
  unfold onRole
  rw [keyOf_setContext, Option.map_map]
  split
  · rename_i same
    rw [same]
    rfl
  · rfl

theorem onRole_isEditor (f : Role → Role) :
    (onRole i f s).isEditor j = if j = i then s.contexts[i].any (fun c => (f c.role).isEditor) else s.isEditor j := by
  unfold onRole
  rw [isEditor_setContext, Option.any_map]
  exact congrArg (fun test => if j = i then s.contexts[i].any test else s.isEditor j)
    (funext fun c => Context.isEditor_eq _)

/-- R142: a change of the lease alone leaves every EDITOR and every READER what it is. -/
theorem onRole_lease {f : Role → Role} (keeps : ∀ r, (f r).isEditor = r.isEditor) :
    (onRole i f s).isEditor j = s.isEditor j := by
  rw [onRole_isEditor]
  split
  · rename_i same
    rw [same, isEditor_eq]
    exact congrArg (fun test => s.contexts[i].any test) (funext fun c => (keeps _).trans (Context.isEditor_eq c).symm)
  · rfl

/-- R143, R144: an ended session leaves its context READER and the others what they are. -/
theorem onRole_reader : (onRole i (fun _ => .reader) s).isEditor j = (decide (j ≠ i) && s.isEditor j) := by
  rw [onRole_isEditor]
  split <;> simp_all [Role.isEditor]

end

theorem renew_isEditor (now : Time) (r : Role) : (r.renew now).isEditor = r.isEditor := by cases r <;> rfl

theorem pause_isEditor (now : Time) (r : Role) : (r.pause now).isEditor = r.isEditor := by
  rcases r with _ | ⟨length, due | left⟩ <;> rfl

theorem resume_isEditor (now : Time) (r : Role) : (r.resume now).isEditor = r.isEditor := by
  rcases r with _ | ⟨length, due | left⟩ <;> rfl

/-- R130: the context that is EDITOR is the first one that is. -/
theorem editor_eq_some_iff {s : State} {i : Fin 4} :
    s.editor = some i ↔ s.isEditor i = true ∧ ∀ j < i, s.isEditor j = false := by
  unfold State.editor
  rw [← Fin.find?_eq_find?_finRange, Fin.find?_eq_some_iff]

theorem editor_eq_none_iff {s : State} : s.editor = none ↔ ∀ i, s.isEditor i = false := by
  unfold State.editor
  rw [← Fin.find?_eq_find?_finRange, Fin.find?_eq_none_iff]

/-- R130: no context in use holds a key that is not found. -/
theorem findContext_none {s : State} {src : StationId} {line : Line} (stranger : s.findContext src line = none)
    (j : Fin 4) : s.keyOf j ≠ some (src, line) := by
  unfold State.findContext at stranger
  rw [← Fin.find?_eq_find?_finRange, Fin.find?_eq_none_iff] at stranger
  have other := stranger j
  unfold State.keyOf
  cases held : s.contexts[j] with
  | none => simp
  | some d =>
    rw [held] at other
    simpa using other

/-- R132: the context that a stranger is given is FREE or a READER. -/
theorem given_notEditor {s : State} {i : Fin 4} (given : s.freeContext.or s.evictable = some i) :
    s.isEditor i = false := by
  obtain free | ⟨-, evicted⟩ := Option.or_eq_some_iff.1 given
  · have unused : s.contexts[i].isNone = true := List.find?_some (p := fun i : Fin 4 => s.contexts[i].isNone) free
    rw [isEditor_eq, Option.isNone_iff_eq_none.1 unused]
    rfl
  · simpa using List.find?_some (p := fun i : Fin 4 => !s.isEditor i) evicted

/-! ## A request served -/

/-- From `s` to `t` each context in use keeps its key, and the recency order stands. -/
structure KeysRest (s t : State) : Prop where
  recency : t.recency = s.recency
  keys : ∀ i, t.keyOf i = s.keyOf i

namespace KeysRest

variable {s t u : State}

theorem of_eq (contexts : t.contexts = s.contexts) (recency : t.recency = s.recency) : KeysRest s t :=
  ⟨recency, keyOf_congr contexts⟩

theorem refl (s : State) : KeysRest s s := .of_eq rfl rfl

theorem trans (h : KeysRest s t) (k : KeysRest t u) : KeysRest s u :=
  ⟨k.recency.trans h.recency, fun i => (k.keys i).trans (h.keys i)⟩

theorem goesOn (h : KeysRest s t) (a : Agent) : KeysRest s (t.setAgent a) := ⟨h.recency, h.keys⟩

theorem onRole (s : State) (i : Fin 4) (f : Role → Role) : KeysRest s (onRole i f s) :=
  ⟨rfl, fun j => onRole_keyOf s i j f⟩

end KeysRest

/-- R128: a request has ended, and the agent takes the next one or waits; or the agent has something else in hand. -/
def Agent.GoesOn (a b : Agent) : Prop :=
  b = a.afterFinish ∨ ∃ hand, hand ≠ .none ∧ b = { a with hand := hand }

/-- From `s` to `t` the agent has served a request in a context that keeps its key and its role. -/
structure Serves (s t : State) : Prop where
  keys : KeysRest s t
  editors : ∀ i, t.isEditor i = s.isEditor i
  store : StoreRests s t
  agent : s.agent.GoesOn t.agent

namespace Serves

variable {s t u : State}

theorem of_eq (contexts : t.contexts = s.contexts) (recency : t.recency = s.recency) (store : StoreRests s t)
    (agent : s.agent.GoesOn t.agent) : Serves s t :=
  ⟨.of_eq contexts recency, isEditor_congr contexts, store, agent⟩

/-- A context revised but for its key and its role, and then the request served. -/
theorem after_revision {i : Fin 4} {f : Context → Context}
    (keeps : ∀ c, (f c).src = c.src ∧ (f c).line = c.line ∧ (f c).isEditor = c.isEditor)
    (served : Serves (s.setContext i (s.contexts[i].map f)) t) : Serves s t where
  keys := by
    refine .trans (t := s.setContext i (s.contexts[i].map f)) ⟨rfl, fun j => ?_⟩ served.keys
    rw [keyOf_setContext, Option.map_map]
    split
    · rename_i same
      rw [same]
      exact congrArg (fun g => s.contexts[i].map g) (funext fun c => Prod.ext (keeps c).1 (keeps c).2.1)
    · rfl
  editors := fun j => by
    rw [served.editors, isEditor_setContext, Option.any_map]
    split
    · rename_i same
      rw [same, isEditor_eq]
      exact congrArg (fun g => s.contexts[i].any g) (funext fun c => (keeps c).2.2)
    · rfl
  store := .trans (t := s.setContext i _) (.of_eq rfl rfl) served.store
  agent := served.agent

theorem after_lease {i : Fin 4} {f : Role → Role} (keeps : ∀ r, (f r).isEditor = r.isEditor)
    (served : Serves (onRole i f s) t) : Serves s t := by
  refine after_revision (f := fun c => { c with role := f c.role }) (fun c => ⟨rfl, rfl, ?_⟩) served
  rw [Context.isEditor_eq, Context.isEditor_eq]
  exact keeps c.role

/-- R114, R128: a reply handed over, and the agent left to go on. -/
theorem replied (s : State) (l : Line) (frame : List Byte) (awaited : Bool) {a : Agent} (goes : s.agent.GoesOn a) :
    Serves s ((sendReply l frame awaited s).setAgent a) := by
  obtain ⟨_, _, _, shape⟩ := sendReply_shape s l frame awaited
  rw [shape]
  exact .of_eq rfl rfl (.of_eq rfl rfl) goes

theorem finished (s : State) (l : Line) (frame : List Byte) (awaited : Bool) :
    Serves s (nextRequest (sendReply l frame awaited s)) := by
  have agent : (sendReply l frame awaited s).agent = s.agent := (enqueue_reach s .n _ _).agent
  rw [nextRequest_eq, agent]
  exact replied s l frame awaited (.inl rfl)

end Serves

section

variable (s : State)

/-- R139: the reply to the request in hand, as the state stands. -/
def InHand.reply (h : InHand) (status : Byte) (s : State) : List Byte :=
  replyFrame h.src h.flow h.seq (replyPayload status s.store.generation h.results) s

/-- R139: the reply is stored in context `i`, when the context is in use. -/
def State.storing (s : State) (i : Fin 4) (frame : List Byte) : State :=
  s.setContext i (s.contexts[i].map fun c => { c with reply := some frame })

theorem sendReply_agent (l : Line) (frame : List Byte) (awaited : Bool) :
    (sendReply l frame awaited s).agent = s.agent := (enqueue_reach s .n _ _).agent

/-- R128, R139: without RESET FULL the reply is stored and handed over, and the request is finished. -/
theorem answer_finishes (status : Byte) {h : InHand} (rests : h.full = false) :
    answer status h s =
      nextRequest (sendReply h.line (h.reply status s) false (s.storing h.ctx (h.reply status s))) := by
  unfold answer
  simp only [rests, Bool.not_false, if_true]
  rfl

/-- R140: after RESET FULL the agent waits for the report on the reply that the service queue takes. -/
theorem answer_awaits (status : Byte) {h : InHand} (full : h.full = true) (takes : s.serviceTakes h.line = true) :
    answer status h s =
      (sendReply h.line (h.reply status s) true (s.storing h.ctx (h.reply status s))).setAgent
        { s.agent with hand := .awaitingReset } := by
  have agent := sendReply_agent (s.storing h.ctx (h.reply status s)) h.line (h.reply status s) true
  have taken : (s.storing h.ctx (h.reply status s)).serviceTakes h.line = true := takes
  unfold State.storing InHand.reply at agent taken ⊢
  unfold answer
  simp only [full, taken, agent, Bool.not_true, Bool.false_eq_true, if_false, if_true]
  rfl

/-- R159: a reply lost at the hand-over lets the FULL reset take effect. -/
theorem answer_resets (status : Byte) {h : InHand} (full : h.full = true) (lost : s.serviceTakes h.line = false) :
    answer status h s =
      fullReset (sendReply h.line (h.reply status s) true (s.storing h.ctx (h.reply status s))) := by
  have refused : (s.storing h.ctx (h.reply status s)).serviceTakes h.line = false := lost
  unfold State.storing InHand.reply at refused ⊢
  unfold answer
  simp only [full, refused, Bool.not_true, Bool.false_eq_true, if_false]

/-- R139, R140, R159: an answer serves its request, or lets the FULL reset that it reports take effect. -/
theorem answer_serves (status : Byte) (h : InHand) :
    Serves s (answer status h s) ∨ h.full = true ∧ ∃ u, answer status h s = fullReset u := by
  have stored : ∀ t, Serves (s.storing h.ctx (h.reply status s)) t → Serves s t := fun t =>
    .after_revision fun c => ⟨rfl, rfl, rfl⟩
  cases full : h.full with
  | false =>
    rw [answer_finishes s status full]
    exact .inl (stored _ (.finished _ _ _ _))
  | true =>
    cases takes : s.serviceTakes h.line with
    | true =>
      rw [answer_awaits s status full takes]
      exact .inl (stored _ (.replied _ _ _ _ (.inr ⟨_, by simp, rfl⟩)))
    | false => exact .inr ⟨rfl, _, answer_resets s status full takes⟩

theorem beginRequest_serves (i : Fin 4) (r : Request) : Serves s (beginRequest i r s) := by
  refine .after_lease (i := i) (f := Role.renew s.timebase) (renew_isEditor s.timebase) ?_
  unfold beginRequest
  dsimp only
  split
  · exact .of_eq rfl rfl (.of_eq rfl rfl) (.inr ⟨_, by simp, rfl⟩)
  · exact (answer_serves _ _ _).resolve_right fun full => absurd full.1 (by simp)

theorem replay_serves (i : Fin 4) (l : Line) : Serves s (replay i l s) := by
  refine .after_lease (i := i) (f := Role.renew s.timebase) (renew_isEditor s.timebase) ?_
  unfold replay
  dsimp only
  split
  · exact .finished _ _ _ _
  · exact .of_eq rfl rfl (.of_eq rfl rfl) (.inl rfl)

/-- R129, R133: a request is judged in the context that holds its key. -/
theorem judgeRequest_serves {i : Fin 4} {c : Context} (held : s.contexts[i] = some c) (r : Request) :
    Serves s (judgeRequest i c r s) := by
  unfold judgeRequest
  split
  · have moved : s.setContext i (some { c with lastSeq := halfAt r.frame 12 }) =
        s.setContext i (s.contexts[i].map fun c => { c with lastSeq := halfAt r.frame 12 }) := by rw [held]; rfl
    rw [moved]
    exact .after_revision (f := fun c => { c with lastSeq := halfAt r.frame 12 }) (fun c => ⟨rfl, rfl, rfl⟩)
      (beginRequest_serves _ i r)
  · exact replay_serves s i r.line
  · exact .finished s _ _ _

/-- R129, R132: a request taken is served in the context that holds its key, or in one that a READER or nobody held and
that now stands as a READER with its key. -/
theorem takeRequest_serves (r : Request) :
    takeRequest r s = s ∨ ∃ i c, Serves (s.withContext i c) (takeRequest r s) ∧
      (s.contexts[i] = some c ∨
        s.isEditor i = false ∧ c.isEditor = false ∧ ∀ j, s.keyOf j ≠ some (c.src, c.line)) := by
  unfold takeRequest
  dsimp only
  split
  · rename_i i known
    split
    · rename_i c held
      refine .inr ⟨i, c, ?_, .inl held⟩
      rw [← withContext_self held]
      exact judgeRequest_serves (touch i s) held r
    · exact .inl rfl
  · rename_i stranger
    split
    · rename_i i given
      exact .inr ⟨i, newContext (wordAt r.frame 4) r.line (halfAt r.frame 12), beginRequest_serves _ i r,
        .inr ⟨given_notEditor given, rfl, findContext_none stranger⟩⟩
    · exact .inl rfl

end

/-! ## What a command can do to a session -/

/-- The agent, the contexts and their recency order are those of `s`. -/
structure SameSession (s t : State) : Prop where
  contexts : t.contexts = s.contexts
  recency : t.recency = s.recency
  agent : t.agent = s.agent

namespace SameSession

variable {s t : State}

theorem refl (s : State) : SameSession s s := ⟨rfl, rfl, rfl⟩

theorem of_egress {p : Line} (h : EgressReach p s t) : SameSession s t := ⟨h.contexts, h.recency, h.agent⟩

theorem trans {u : State} (h : SameSession s t) (k : SameSession t u) : SameSession s u :=
  ⟨k.contexts.trans h.contexts, k.recency.trans h.recency, k.agent.trans h.agent⟩

theorem keys (h : SameSession s t) : KeysRest s t := .of_eq h.contexts h.recency

end SameSession

/-- What a command of the request in hand `h` does to the session: it goes on with no role changed, stages an entry for
the EDITOR, opens or renews a session, ends a session with CLEAN staging, or waits for a copy. -/
inductive CommandMove (h : InHand) (s : State) : State → Prop
  | goesOn {u : State} (next : InHand) (same : SameSession s u) (store : StoreRests s u) :
      CommandMove h s (u.setAgent { u.agent with hand := .request next })
  | stages (b : Bank) (editor : s.isEditor h.ctx = true) : CommandMove h s (finishCommand h .ok [] (stage b s))
  | grants (length : Half) (may : s.editor = some h.ctx ∨ s.editor = none ∧ s.store.phase = .steady) :
      CommandMove h s (grantSession length h s)
  | closes (clean : s.store.dirty = false) :
      CommandMove h s (finishCommand h .ok [] (onRole h.ctx (fun _ => .reader) s))
  | waits {u : State} (same : SameSession s u) (copies : u.store.phase ≠ .steady) : CommandMove h s (waitForCopy h u)

section

variable (h : InHand) (s : State)

theorem CommandMove.finished (st : Status) (d : List Byte) : CommandMove h s (finishCommand h st d s) :=
  .goesOn _ (.refl s) (.refl s)

theorem openWith_session (lease : Half) : CommandMove h s (openWith lease h s) := by
  unfold openWith
  split
  · exact .finished h s _ _
  · split
    · rename_i i editor
      split
      · rename_i own
        exact .grants _ (.inl (own ▸ editor))
      · exact .finished h s _ _
    · split
      · exact .grants _ (.inr ⟨‹_›, ‹_›⟩)
      · exact .finished h s _ _

/-- R55: a revert that the agent waits for. -/
theorem waitedRevert_session : CommandMove h s (waitedRevert h s) := .waits ⟨rfl, rfl, rfl⟩ nofun

theorem closeNow_session : CommandMove h s (closeNow h s) := by
  unfold closeNow
  split
  · exact waitedRevert_session h s
  · exact .closes (Bool.not_eq_true _ ▸ ‹_›)

theorem revertNow_session : CommandMove h s (revertNow h s) := by
  unfold revertNow
  split
  · exact waitedRevert_session h s
  · exact .finished h s _ _

theorem commitNow_session : CommandMove h s (commitNow h s) := by
  unfold commitNow
  split
  · exact .finished h s _ _
  · split
    · refine .waits (u := flip s) ?_ ?_
      · rw [flip_shape]
        exact ⟨rfl, rfl, rfl⟩
      · rw [flip_shape, flipStore_eq]
        exact flipPhase_ne_steady s
    · exact .finished h s _ _

theorem readTable_session (ops : List Byte) : CommandMove h s (readTable ops h s) := by
  unfold readTable
  dsimp only
  split
  · exact .finished h s _ _
  · split
    · exact .finished h s _ _
    · split
      · exact .finished h s _ _
      · split
        · exact .finished h s _ _
        · split <;> exact .finished h s _ _

section

variable {h s} (editor : s.isEditor h.ctx = true)

include editor

theorem finishWrite_session (t : TableId) (i : Nat) (b : Option Bank) : CommandMove h s (finishWrite t i b h s) := by
  cases b with
  | none => exact .finished h s _ _
  | some b => exact .stages b editor

theorem writeEntry_session (ops : List Byte) : CommandMove h s (writeEntry ops h s) := by
  unfold writeEntry
  dsimp only
  split
  · exact .finished h s _ _
  · split
    · exact .finished h s _ _
    · split
      · exact .finished h s _ _
      · exact finishWrite_session editor _ _ _

theorem fillTable_session (ops : List Byte) : CommandMove h s (fillTable ops h s) := by
  unfold fillTable
  split
  · exact .finished h s _ _
  · split
    · exact .finished h s _ _
    · exact finishWrite_session editor _ _ _

end

theorem statNow_session (ops : List Byte) : CommandMove h s (statNow ops h s) := by
  unfold statNow
  split
  · exact .finished h s _ _
  · split
    · exact .finished h s _ _
    · exact .finished h s _ _
    · unfold readCounters
      dsimp only
      split
      · exact .goesOn (u := { s with counters := _ }) _ ⟨rfl, rfl, rfl⟩ (.of_eq rfl rfl)
      · exact .finished h s _ _

theorem captNow_session (ops : List Byte) : CommandMove h s (captNow ops h s) := by
  unfold captNow
  split <;> exact .finished h s _ _

theorem freeNow_session (ops : List Byte) : CommandMove h s (freeNow ops h s) := by
  unfold freeNow
  split
  · exact .finished h s _ _
  · split
    · exact .goesOn (u := s.setCapture _) _ ⟨rfl, rfl, rfl⟩ (.of_eq rfl rfl)
    · exact .finished h s _ _
    · exact .finished h s _ _

theorem queryNow_session : CommandMove h s (queryNow h s) := by
  unfold queryNow
  dsimp only
  split
  · split
    · exact .goesOn _ (.refl s) (.refl s)
    · exact .finished h s _ _
  · exact .finished h s _ _

theorem trafficReset_session : SameSession s (trafficReset s) := by
  have north := clearEgress_reach ((discardFrame .s (discardFrame .n s)).setCapture CaptureStore.empty) .n
  have discarded : SameSession s ((discardFrame .s (discardFrame .n s)).setCapture CaptureStore.empty) :=
    ⟨rfl, rfl, rfl⟩
  exact (discarded.trans (.of_egress north)).trans (.of_egress (clearEgress_reach _ .s))

variable {h s}

theorem withForm_session {n : Nat} {ops : List Byte} {f : InHand → State → State} (judged : CommandMove h s (f h s)) :
    CommandMove h s (withForm n ops f h s) :=
  withForm_leads s h (.finished h s _ _) judged

/-- R145: a staging command goes further for the EDITOR only. -/
theorem editorOnly_session {f : InHand → State → State}
    (judged : s.isEditor h.ctx = true → CommandMove h s (f h s)) : CommandMove h s (editorOnly f h s) := by
  unfold editorOnly
  split
  · exact judged ‹_›
  · exact .finished h s _ _

theorem command_session {i : Instr} {f : InHand → State → State} (means : commandMeaning i = some f) :
    CommandMove h s (f h s) := by
  cases i with
  | openSession ops =>
    obtain rfl := Option.some.inj means
    exact withForm_session (openWith_session h s _)
  | closeSession ops =>
    obtain rfl := Option.some.inj means
    exact editorOnly_session fun _ => withForm_session (closeNow_session h s)
  | rd ops =>
    obtain rfl := Option.some.inj means
    exact withForm_session (readTable_session h s ops)
  | wr ops =>
    obtain rfl := Option.some.inj means
    exact editorOnly_session fun editor => writeEntry_session editor ops
  | fill ops =>
    obtain rfl := Option.some.inj means
    exact editorOnly_session fun editor => fillTable_session editor ops
  | commit ops =>
    obtain rfl := Option.some.inj means
    exact editorOnly_session fun _ => withForm_session (commitNow_session h s)
  | revert ops =>
    obtain rfl := Option.some.inj means
    exact editorOnly_session fun _ => withForm_session (revertNow_session h s)
  | stat ops =>
    obtain rfl := Option.some.inj means
    exact withForm_session (statNow_session h s ops)
  | capt ops =>
    obtain rfl := Option.some.inj means
    exact withForm_session (captNow_session h s ops)
  | free ops =>
    obtain rfl := Option.some.inj means
    exact withForm_session (freeNow_session h s ops)
  | query ops =>
    obtain rfl := Option.some.inj means
    exact withForm_session (queryNow_session h s)
  | resetCounters =>
    obtain rfl := Option.some.inj means
    exact .goesOn (u := { s with counters := _ }) _ ⟨rfl, rfl, rfl⟩ (.of_eq rfl rfl)
  | resetTraffic =>
    obtain rfl := Option.some.inj means
    exact .goesOn _ (trafficReset_session s) (trafficReset_rests s)
  | resetFull =>
    obtain rfl := Option.some.inj means
    exact .goesOn _ (.refl s) (.refl s)
  | resetnAssert | resetnRelease _ | symbolReceived _ _ | egressDecision _ | launchCompletion _ | residenceExpiry _ _
  | windowRelease _ _ | ageingEvent _ _ | cadenceExpiry _ | requestTake | copyBackCompletion | leaseExpiry =>
    exact absurd means (by simp [commandMeaning])

end

end Sys2Proof.Machine
end

section
/-! SUPPORT. The keys of the contexts and their recency order (R130, R131), and the roles of the contexts beside the
phase of the table store (R128, R130, R141, R145): the proofs that every step keeps both. -/

namespace Sys2Proof.Machine

/-! ## The keys of the contexts -/

theorem contextsInv_iff (s : State) :
    s.ContextsInv ↔ s.recency.Nodup ∧ (∀ i, i ∈ s.recency ↔ (s.keyOf i).isSome = true) ∧
      ∀ i j k, s.keyOf i = some k → s.keyOf j = some k → i = j := by
  unfold State.ContextsInv
  simp only [keyOf_isSome]
  refine and_congr_right fun _ => and_congr_right fun _ => ⟨fun distinct i j k first second => ?_,
    fun distinct i j c d first second src line => ?_⟩
  · obtain ⟨c, held, rfl⟩ := Option.map_eq_some_iff.1 first
    obtain ⟨d, held', key⟩ := Option.map_eq_some_iff.1 second
    obtain ⟨src, line⟩ := Prod.mk.inj key
    exact distinct i j c d held held' src.symm line.symm
  · refine distinct i j _ (keyOf_some first) ((keyOf_some second).trans ?_)
    rw [src, line]

/-- The invariant reads the keys and the recency order only. -/
theorem KeysRest.contextsInv {s t : State} (rests : KeysRest s t) (inv : s.ContextsInv) : t.ContextsInv := by
  rw [contextsInv_iff] at inv ⊢
  simp only [rests.recency, rests.keys]
  exact inv

/-- R131, R132: a context that stands under a key of its own, and is now the most recently active. -/
theorem withContext_contextsInv {s : State} (inv : s.ContextsInv) {i : Fin 4} {c : Context}
    (own : ∀ j, j ≠ i → s.keyOf j ≠ some (c.src, c.line)) : (s.withContext i c).ContextsInv := by
  rw [contextsInv_iff] at inv ⊢
  obtain ⟨nodup, lists, distinct⟩ := inv
  have recency : (s.withContext i c).recency = i :: s.recency.filter (· ≠ i) := rfl
  simp only [recency, withContext_keyOf]
  refine ⟨List.nodup_cons.2 ⟨by simp, nodup.filter _⟩, fun j => ?_, fun j k key first second => ?_⟩
  · by_cases same : j = i
    · simp [same]
    · simp [same, lists]
  · by_cases one : j = i <;> by_cases other : k = i
    · exact one.trans other.symm
    · rw [if_pos one] at first
      rw [if_neg other] at second
      exact absurd (second.trans first.symm) (own k other)
    · rw [if_neg one] at first
      rw [if_pos other] at second
      exact absurd (first.trans second.symm) (own j one)
    · rw [if_neg one] at first
      rw [if_neg other] at second
      exact distinct j k key first second

theorem powerOnFrom_contextsInv (straps : BitVec 6) (low : Bool) (u : State) :
    ({ powerOnFrom straps u with resetLow := low } : State).ContextsInv := by
  obtain ⟨-, -, -, -, -, -, -, -, contexts, -⟩ := powerOnSatisfiesInvariants straps
  exact contexts

theorem takeRequest_contextsInv {s : State} (inv : s.ContextsInv) (r : Request) : (takeRequest r s).ContextsInv := by
  obtain e | ⟨i, c, served, place⟩ := takeRequest_serves s r
  · rw [e]
    exact inv
  · refine served.keys.contextsInv (withContext_contextsInv inv fun j other key => ?_)
    obtain held | ⟨-, -, stranger⟩ := place
    · obtain ⟨-, -, distinct⟩ := (contextsInv_iff s).1 inv
      exact other (distinct j i _ key (keyOf_some held))
    · exact stranger j key

theorem goOn_contextsInv {s : State} (inv : s.ContextsInv) (h : InHand) : (goOn h s).ContextsInv := by
  unfold goOn
  split
  · obtain served | ⟨-, u, resets⟩ := answer_serves s requestOk h
    · exact served.keys.contextsInv inv
    · rw [resets]
      exact powerOnFrom_contextsInv u.straps u.resetLow u
  · split <;> exact inv

/-- A command changes the role of a context at most. -/
theorem CommandMove.keys {h : InHand} {s t : State} (moved : CommandMove h s t) : KeysRest s t := by
  cases moved with
  | goesOn next same store => exact same.keys.goesOn _
  | stages b editor => exact .of_eq rfl rfl
  | grants length may => exact (KeysRest.onRole s h.ctx _).goesOn _
  | closes clean => exact (KeysRest.onRole s h.ctx _).goesOn _
  | waits same copies => exact same.keys.trans ((KeysRest.onRole _ h.ctx _).goesOn _)

theorem copyDone_keys (s : State) : KeysRest s (copyDone s) := by
  unfold copyDone
  split
  · unfold endWait
    dsimp only
    have copied : KeysRest s ((finishCopy s).setAgent { (finishCopy s).agent with state := .executing }) :=
      .of_eq rfl rfl
    split <;> exact copied.trans ((KeysRest.onRole _ _ _).goesOn _)
  · exact .of_eq rfl rfl

theorem expireLease_keys (s : State) (i : Fin 4) : KeysRest s (expireLease i s) := by
  unfold expireLease
  have noticed : ∀ (u : State) now, KeysRest u (notify (.leaseExpired i) now u) := fun u now =>
    .of_eq (notify_reach u .n _ now).contexts (notify_reach u .n _ now).recency
  refine .trans (.onRole s i fun _ => .reader) ?_
  dsimp only
  split
  · exact .trans (t := startCopy (onRole i (fun _ => .reader) s)) (.of_eq rfl rfl) (noticed _ _)
  · exact noticed _ _

theorem SessionMove.contextsInv {s t : State} (moved : SessionMove s t) (inv : s.ContextsInv) : t.ContextsInv := by
  cases moved with
  | rests session store => exact (KeysRest.of_eq session.contexts session.recency).contextsInv inv
  | reset straps u low => exact powerOnFrom_contextsInv straps low u
  | take r executing inHand => exact takeRequest_contextsInv inv r
  | goOn h executing inHand => exact goOn_contextsInv inv h
  | command i f h means executing inHand toRun => exact (command_session means).keys.contextsInv inv
  | copied begun refilling => exact (copyDone_keys s).contextsInv inv
  | expired i editor => exact (expireLease_keys s i).contextsInv inv

/-- Settles O58: a stranger's context is the only one whose key changes, and it becomes the most recently active. -/
theorem stepKeepsContextKeysDistinct : Obligations.StepKeepsContextKeysDistinct := by
  intro s t inv stepped
  obtain rfl | ⟨i, choices, pending, next⟩ := step_cases stepped
  · refine (KeysRest.of_eq ?_ ?_).contextsInv inv <;> unfold tick <;> split <;> rfl
  · exact (exec_session { s with choices := choices, pending := pending } next).contextsInv inv

/-! ## The roles of the contexts and the phase -/

/-- R130, R141, R145: outside COMMIT_WAIT one context at most is EDITOR, it finds the store STEADY, and in STEADY only
an EDITOR leaves staging DIRTY. -/
def State.EditsInSteady (s : State) : Prop :=
  (∀ i j, s.isEditor i = true → s.isEditor j = true → i = j) ∧
    (∀ i, s.isEditor i = true → s.store.phase = .steady) ∧
    (s.store.phase = .steady → s.store.dirty = true → ∃ i, s.isEditor i = true)

theorem sessionInv_iff_edits {s : State} (free : s.agent.state ≠ .commitWait) :
    s.SessionInv ↔ s.agent.Sound ∧ s.EditsInSteady := by
  constructor
  · rintro ⟨idle, empty, one, steady, -, dirty⟩
    exact ⟨⟨idle, empty⟩, one, steady free, dirty⟩
  · rintro ⟨⟨idle, empty⟩, one, steady, dirty⟩
    exact ⟨idle, empty, one, fun _ => steady, fun waits => absurd waits free, dirty⟩

/-- The roles of the contexts and STEADY with its mark are all that the rule reads. -/
theorem State.EditsInSteady.congr {s t : State} (edits : s.EditsInSteady)
    (editors : ∀ i, t.isEditor i = s.isEditor i) (store : StoreRests s t) : t.EditsInSteady := by
  obtain ⟨-, ph, stands, steady⟩ := store
  unfold State.EditsInSteady
  simp only [editors, stands, steady]
  exact edits

/-- An agent that goes on from EXECUTING is not in COMMIT_WAIT, and Table 8-2 holds of it. -/
theorem Agent.GoesOn.sound {a b : Agent} (goes : a.GoesOn b) (executing : a.state = .executing) :
    b.Sound ∧ b.state ≠ .commitWait := by
  obtain rfl | ⟨hand, some, rfl⟩ := goes
  · exact ⟨afterFinish_sound a, afterFinish_notWaitingForCopy a⟩
  · exact ⟨Agent.sound_of_busy (by simp [executing]) some, by simp [executing]⟩

/-- The session of an agent that has served a request or goes on with one. -/
theorem sessionInv_of_goesOn {a : Agent} {t : State} (executing : a.state = .executing) (goes : a.GoesOn t.agent)
    (edits : t.EditsInSteady) : t.SessionInv := by
  obtain ⟨sound, free⟩ := goes.sound executing
  exact (sessionInv_iff_edits free).2 ⟨sound, edits⟩

theorem Serves.sessionInv {s t : State} (served : Serves s t) (executing : s.agent.state = .executing)
    (edits : s.EditsInSteady) : t.SessionInv :=
  sessionInv_of_goesOn executing served.agent (edits.congr served.editors served.store)

theorem powerOnFrom_sessionInv (straps : BitVec 6) (low : Bool) (u : State) :
    ({ powerOnFrom straps u with resetLow := low } : State).SessionInv := powerOn_sessionInv straps

/-- R51, R126, R128: reception moves no role, keeps a wait for a copy, and neither enters nor leaves STEADY. -/
theorem SessionRests.sessionInv {s t : State} (session : SessionRests s t) (store : StoreRests s t)
    (inv : s.SessionInv) : t.SessionInv := by
  obtain ⟨idle, empty, one, steady, copies, dirty⟩ := inv
  obtain ⟨-, ph, stands, same⟩ := store
  obtain ⟨idles, empties⟩ := session.agent.sound ⟨idle, empty⟩
  have phase : t.store.phase = .steady ↔ s.store.phase = .steady := by rw [stands]; exact same
  have mark : t.store.dirty = s.store.dirty := by rw [stands]
  refine ⟨idles, empties, ?_, ?_, fun waits => ?_, ?_⟩
  · simpa only [isEditor_congr session.contexts] using one
  · simpa only [isEditor_congr session.contexts, phase, ne_eq, session.agent.waits] using steady
  · have waited := session.agent.waits.1 waits
    rw [session.agent.hand waited, ne_eq, phase]
    exact copies waited
  · simpa only [isEditor_congr session.contexts, phase, mark] using dirty

section

variable {s : State} (executing : s.agent.state = .executing) (edits : s.EditsInSteady)

include executing edits

theorem takeRequest_sessionInv {r : Request} (inHand : s.agent.hand = .taken r) : (takeRequest r s).SessionInv := by
  obtain e | ⟨i, c, served, place⟩ := takeRequest_serves s r
  · rw [e]
    exact sessionInv_of_goesOn executing (.inr ⟨.taken r, by simp, by rw [← inHand]⟩) edits
  · refine served.sessionInv executing (edits.congr (fun j => ?_) (.of_eq rfl rfl))
    rw [withContext_isEditor]
    split
    · rename_i same
      obtain held | ⟨reader, given, -⟩ := place
      · rw [same, isEditor_some held]
      · rw [same, reader, given]
    · rfl

theorem finishCommand_sessionInv (h : InHand) (st : Status) (d : List Byte) :
    (finishCommand h st d s).SessionInv :=
  sessionInv_of_goesOn executing (.inr ⟨.request (h.finish st d), by simp, rfl⟩) edits

theorem goOn_sessionInv {h : InHand} (inHand : s.agent.hand = .request h) : (goOn h s).SessionInv := by
  unfold goOn
  split
  · obtain served | ⟨-, u, resets⟩ := answer_serves s requestOk h
    · exact served.sessionInv executing edits
    · rw [resets]
      exact powerOnFrom_sessionInv u.straps u.resetLow u
  · split
    · exact finishCommand_sessionInv executing edits h _ _
    · exact sessionInv_of_goesOn executing (.inr ⟨.request h, by simp, by rw [← inHand]⟩) edits

end

/-- R55, R144: an ended session with CLEAN staging leaves no EDITOR behind but another. -/
theorem State.EditsInSteady.reader {s t : State} (edits : s.EditsInSteady) {i : Fin 4}
    (editors : ∀ j, t.isEditor j = (decide (j ≠ i) && s.isEditor j)) (store : t.store = s.store)
    (clean : s.store.dirty = false) : t.EditsInSteady := by
  obtain ⟨one, steady, -⟩ := edits
  unfold State.EditsInSteady
  simp only [editors, store, Bool.and_eq_true]
  exact ⟨fun j k first second => one j k first.2 second.2, fun j editor => steady j editor.2,
    fun _ dirty => absurd dirty (by simp [clean])⟩

/-- R141: a granted session makes its context the one EDITOR, and it finds the store STEADY. -/
theorem grantSession_edits {s : State} (edits : s.EditsInSteady) {h : InHand}
    (may : s.editor = some h.ctx ∨ s.editor = none ∧ s.store.phase = .steady) (length : Half) :
    (grantSession length h s).EditsInSteady := by
  obtain ⟨one, steady, dirty⟩ := edits
  have others : ∀ j, s.isEditor j = true → j = h.ctx := fun j editor => by
    obtain own | ⟨none, -⟩ := may
    · exact one j h.ctx editor (editor_eq_some_iff.1 own).1
    · exact absurd editor (by simp [editor_eq_none_iff.1 none j])
  have phase : s.store.phase = .steady := by
    obtain own | ⟨-, phase⟩ := may
    · exact steady h.ctx (editor_eq_some_iff.1 own).1
    · exact phase
  have editors : ∀ j, (grantSession length h s).isEditor j =
      if j = h.ctx then s.contexts[h.ctx].isSome else s.isEditor j := fun j => by
    have role := onRole_isEditor s h.ctx j fun _ => .editor length (.running (s.timebase + leaseSpan length))
    refine Eq.trans role ?_
    cases s.contexts[h.ctx] <;> rfl
  have only : ∀ j, (grantSession length h s).isEditor j = true → j = h.ctx := fun j editor => by
    rw [editors] at editor
    split at editor
    · assumption
    · exact others j editor
  refine ⟨fun j k first second => (only j first).trans (only k second).symm, fun _ _ => phase, fun _ marked => ?_⟩
  obtain ⟨j, editor⟩ := dirty phase marked
  obtain rfl := others j editor
  refine ⟨h.ctx, ?_⟩
  rw [editors, if_pos rfl]
  cases held : s.contexts[h.ctx] with
  | none => simp [isEditor_eq, held] at editor
  | some c => rfl

/-- R48, R55, R142: a wait for a copy pauses a lease, and moves no role. -/
theorem waitForCopy_sessionInv {s u : State} {h : InHand} (same : SameSession s u) (copies : u.store.phase ≠ .steady)
    (inHand : s.agent.hand = .request h) (toRun : h.toRun ≠ []) (edits : s.EditsInSteady) :
    (waitForCopy h u).SessionInv := by
  have hand : u.agent.hand = .request h := by rw [same.agent, inHand]
  have editors : ∀ i, (waitForCopy h u).isEditor i = s.isEditor i := fun i =>
    (onRole_lease u h.ctx i (pause_isEditor u.timebase)).trans (isEditor_congr same.contexts i)
  obtain ⟨one, -, -⟩ := edits
  refine ⟨⟨nofun, fun none => ?_⟩, nofun, ?_, fun moves => absurd rfl moves, fun _ => ⟨copies, h, hand, toRun⟩,
    fun steady => absurd steady copies⟩
  · exact absurd (hand.symm.trans none) (by simp)
  · simpa only [editors] using one

theorem CommandMove.sessionInv {h : InHand} {s t : State} (moved : CommandMove h s t)
    (executing : s.agent.state = .executing) (inHand : s.agent.hand = .request h) (toRun : h.toRun ≠ [])
    (edits : s.EditsInSteady) : t.SessionInv := by
  cases moved with
  | goesOn next same store =>
    refine sessionInv_of_goesOn executing (.inr ⟨.request next, by simp, ?_⟩)
      (edits.congr (isEditor_congr same.contexts) store)
    rw [setAgent_agent, same.agent]
  | stages b editor =>
    obtain ⟨one, steady, -⟩ := edits
    have phase : (stage b s).store.phase = s.store.phase := setStaging_phase s.store b
    exact finishCommand_sessionInv (s := stage b s) executing
      ⟨one, fun i edits => phase.trans (steady i edits), fun _ _ => ⟨h.ctx, editor⟩⟩ h _ _
  | grants length may =>
    exact sessionInv_of_goesOn executing (.inr ⟨_, by simp, rfl⟩) (grantSession_edits edits may length)
  | closes clean =>
    exact finishCommand_sessionInv (s := onRole h.ctx _ s) executing
      (edits.reader (fun j => onRole_reader s h.ctx j) rfl clean) h _ _
  | waits same copies => exact waitForCopy_sessionInv same copies inHand toRun edits

/-! ## The end of a copy, the end of a lease -/

/-- R53: once a copy is over the store is STEADY and CLEAN, and whoever is EDITOR finds it so. -/
theorem edits_of_copied {s t : State} (one : ∀ i j, s.isEditor i = true → s.isEditor j = true → i = j)
    (editors : ∀ i, t.isEditor i = true → s.isEditor i = true) (phase : t.store.phase = .steady)
    (clean : t.store.dirty = false) : t.EditsInSteady :=
  ⟨fun i j first second => one i j (editors i first) (editors j second), fun _ _ => phase,
    fun _ dirty => absurd dirty (by simp [clean])⟩

/-- R54, R55, R144: the command that waited returns, and of the roles at most its own changes, to READER. -/
theorem endWait_sessionInv {s : State} (h : InHand)
    (one : ∀ i j, s.isEditor i = true → s.isEditor j = true → i = j) (phase : s.store.phase = .steady)
    (clean : s.store.dirty = false) : (endWait h s).SessionInv := by
  unfold endWait
  dsimp only
  split
  · refine finishCommand_sessionInv
      (s := onRole h.ctx (fun _ => .reader) (s.setAgent { s.agent with state := .executing })) rfl
      (edits_of_copied one (fun i editor => ?_) phase clean) h _ _
    rw [onRole_reader, Bool.and_eq_true] at editor
    exact editor.2
  · refine finishCommand_sessionInv
      (s := onRole h.ctx (Role.resume s.timebase) (s.setAgent { s.agent with state := .executing })) rfl
      (edits_of_copied one (fun i editor => ?_) phase clean) h _ _
    rw [onRole_lease _ _ _ (resume_isEditor s.timebase)] at editor
    exact editor

theorem copyDone_sessionInv {s : State} (inv : s.SessionInv) : (copyDone s).SessionInv := by
  obtain ⟨idle, empty, one, -, copies, -⟩ := inv
  unfold copyDone
  split
  · exact endWait_sessionInv (s := finishCopy s) _ one rfl rfl
  · rename_i other
    have free : s.agent.state ≠ .commitWait := fun waits => by
      obtain ⟨-, h, inHand, -⟩ := copies waits
      exact other h waits inHand
    exact (sessionInv_iff_edits (s := finishCopy s) free).2
      ⟨⟨idle, empty⟩, edits_of_copied (s := s) one (fun _ => id) rfl rfl⟩

theorem expireLease_isEditor (s : State) (i j : Fin 4) :
    (expireLease i s).isEditor j = (decide (j ≠ i) && s.isEditor j) := by
  refine Eq.trans (isEditor_congr ?_ j) (onRole_reader s i j)
  unfold expireLease
  refine (notify_reach _ .n _ _).contexts.trans ?_
  split <;> rfl

theorem expireLease_agent (s : State) (i : Fin 4) : (expireLease i s).agent = s.agent := by
  unfold expireLease
  refine (notify_reach _ .n _ _).agent.trans ?_
  split <;> rfl

/-- R56: an expired lease reverts DIRTY staging. -/
theorem expireLease_store (s : State) (i : Fin 4) :
    (expireLease i s).store =
      { s.store with phase := if s.store.dirty then .refilling s.timebase else s.store.phase } := by
  unfold expireLease
  refine (notify_reach _ .n _ _).store.trans ?_
  dsimp only
  split
  · rename_i dirty
    have dirty : s.store.dirty = true := dirty
    rw [if_pos dirty]
    rfl
  · rename_i clean
    have clean : ¬ s.store.dirty = true := clean
    rw [if_neg clean]
    rfl

/-- R56, R143: with the one EDITOR gone, DIRTY staging has left STEADY. -/
theorem expireLease_sessionInv {s : State} (inv : s.SessionInv) {i : Fin 4} (editor : s.isEditor i = true) :
    (expireLease i s).SessionInv := by
  obtain ⟨idle, empty, one, -, copies, -⟩ := inv
  have nobody : ∀ j, (expireLease i s).isEditor j = false := fun j => by
    rw [expireLease_isEditor]
    cases other : s.isEditor j with
    | false => exact Bool.and_false _
    | true => simp [one j i other editor]
  have reverts : s.store.dirty = true → (expireLease i s).store.phase ≠ .steady := fun dirty => by
    rw [expireLease_store, if_pos dirty]
    nofun
  unfold State.SessionInv
  rw [expireLease_agent]
  refine ⟨idle, empty, fun j k first => ?_, fun _ j first => ?_, fun waits => ?_, fun steady dirty => ?_⟩
  · exact absurd first (by simp [nobody])
  · exact absurd first (by simp [nobody])
  · obtain ⟨copying, held⟩ := copies waits
    refine ⟨?_, held⟩
    rw [expireLease_store]
    dsimp only
    split
    · nofun
    · exact copying
  · rw [expireLease_store] at dirty
    exact absurd steady (reverts dirty)

/-! ## Every step -/

theorem SessionMove.sessionInv {s t : State} (moved : SessionMove s t) (inv : s.SessionInv) : t.SessionInv := by
  have edits : s.agent.state = .executing → s.EditsInSteady := fun executing =>
    ((sessionInv_iff_edits (by simp [executing])).1 inv).2
  cases moved with
  | rests session store => exact session.sessionInv store inv
  | reset straps u low => exact powerOnFrom_sessionInv straps low u
  | take r executing inHand => exact takeRequest_sessionInv executing (edits executing) inHand
  | goOn h executing inHand => exact goOn_sessionInv executing (edits executing) inHand
  | command i f h means executing inHand toRun =>
    exact (command_session means).sessionInv executing inHand toRun (edits executing)
  | copied begun refilling => exact copyDone_sessionInv inv
  | expired i editor => exact expireLease_sessionInv inv (editor_eq_some_iff.1 editor).1

/-- Settles O54: each move of a session keeps one EDITOR at most, who finds the store STEADY outside COMMIT_WAIT. -/
theorem stepKeepsSingleEditorInSteady : Obligations.StepKeepsSingleEditorInSteady := by
  intro s t inv stepped
  obtain rfl | ⟨i, choices, pending, next⟩ := step_cases stepped
  · have rests : SessionRests s (tick s) ∧ StoreRests s (tick s) := by
      unfold tick
      split <;> exact ⟨.of_eq rfl rfl rfl, .of_eq rfl rfl⟩
    exact rests.1.sessionInv rests.2 inv
  · exact (exec_session { s with choices := choices, pending := pending } next).sessionInv inv

end Sys2Proof.Machine
end

section
/-! SUPPORT. The course of a request (R129, R132, R136, R137, R139, R140): the payloads that parse, the commands it is
begun with, the results it gathers, and its reply. -/

namespace Sys2Proof.Machine

/-! ## The payload of a request -/

/-- Table 11-3: one command of a payload as its bytes. -/
def Cmd.bytes (c : Cmd) : List Byte :=
  [c.code, byteOf c.ops.length] ++ c.ops

theorem byteOf_toNat {n : Nat} (small : n < 256) : (byteOf n).toNat = n :=
  (BitVec.toNat_ofNat n 8).trans (Nat.mod_eq_of_lt small)

theorem byteOf_toNat_self (b : Byte) : byteOf b.toNat = b := BitVec.ofNat_toNat 8 b

theorem parseCommands_cons (n : Nat) (code k : Byte) (rest : List Byte) :
    parseCommands (n + 1) (code :: k :: rest) =
      if k.toNat ≤ rest.length then
        (parseCommands n (rest.drop k.toNat)).map fun cs => { code := code, ops := rest.take k.toNat } :: cs
      else none := rfl

/-- R136: the bytes of a command and of those behind it parse into it and them. -/
theorem parseCommands_bytes {c : Cmd} (short : c.ops.length ≤ 255) (n : Nat) (rest : List Byte) :
    parseCommands (n + 1) (c.bytes ++ rest) = (parseCommands n rest).map (c :: ·) := by
  have length : (byteOf c.ops.length).toNat = c.ops.length := byteOf_toNat (by omega)
  refine (parseCommands_cons n c.code (byteOf c.ops.length) (c.ops ++ rest)).trans ?_
  rw [length, if_pos (by simp), List.drop_left, List.take_left]

/-- R136: what a header's number of commands parses into spells those bytes and no more. -/
theorem parseCommands_spells {n : Nat} : ∀ {bytes : List Byte} {cs : List Cmd}, parseCommands n bytes = some cs →
    cs.length = n ∧ (∀ c ∈ cs, c.ops.length ≤ 255) ∧ bytes = cs.flatMap Cmd.bytes := by
  induction n with
  | zero =>
    intro bytes cs parsed
    cases bytes with
    | nil =>
      obtain rfl := Option.some.inj parsed
      exact ⟨rfl, nofun, rfl⟩
    | cons b rest => exact absurd parsed (by simp [parseCommands])
  | succ n ih =>
    intro bytes cs parsed
    obtain _ | ⟨code, _ | ⟨k, rest⟩⟩ := bytes
    · exact absurd parsed (by simp [parseCommands])
    · exact absurd parsed (by simp [parseCommands])
    · rw [parseCommands_cons] at parsed
      split at parsed
      · rename_i fits
        obtain ⟨later, behind, rfl⟩ := Option.map_eq_some_iff.1 parsed
        obtain ⟨length, short, spelled⟩ := ih behind
        have taken : (rest.take k.toNat).length = k.toNat := List.length_take_of_le fits
        refine ⟨by simp [length], List.forall_mem_cons.2 ⟨?_, short⟩, ?_⟩
        · have bound := k.isLt
          dsimp only
          omega
        · rw [List.flatMap_cons, ← spelled, Cmd.bytes, taken, byteOf_toNat_self, List.append_assoc,
            List.take_append_drop]
          rfl
      · exact absurd parsed (by simp)

theorem parseCommands_flatMap (cs : List Cmd) (short : ∀ c ∈ cs, c.ops.length ≤ 255) :
    parseCommands cs.length (cs.flatMap Cmd.bytes) = some cs := by
  induction cs with
  | nil => rfl
  | cons c cs ih =>
    obtain ⟨first, later⟩ := List.forall_mem_cons.1 short
    rw [List.length_cons, List.flatMap_cons, parseCommands_bytes first, ih later]
    rfl

theorem parsePayload_header (n x y : Byte) (rest : List Byte) :
    parsePayload (0x00#8 :: n :: x :: y :: rest) =
      if 1 ≤ n.toNat ∧ n.toNat ≤ 32 then parseCommands n.toNat rest else none := by
  simp [parsePayload]

/-- R136: the payloads with a header. -/
theorem parsePayload_some {payload : List Byte} {cs : List Cmd} (parsed : parsePayload payload = some cs) :
    ∃ n x y rest, payload = 0x00#8 :: n :: x :: y :: rest ∧ 1 ≤ n.toNat ∧ n.toNat ≤ 32 ∧
      parseCommands n.toNat rest = some cs := by
  unfold parsePayload at parsed
  split at parsed
  · rename_i f n x y rest
    split at parsed
    · rename_i form
      obtain ⟨rfl, positive, within⟩ := form
      exact ⟨n, x, y, rest, rfl, positive, within, parsed⟩
    · exact absurd parsed (by simp)
  · exact absurd parsed (by simp)

/-- R136: which payloads parse, and into which commands. -/
theorem parsePayload_iff (payload : List Byte) (cs : List Cmd) :
    parsePayload payload = some cs ↔
      1 ≤ cs.length ∧ cs.length ≤ 32 ∧ (∀ c ∈ cs, c.ops.length ≤ 255) ∧
        ∃ x y, payload = [0x00#8, byteOf cs.length, x, y] ++ cs.flatMap Cmd.bytes := by
  constructor
  · intro parsed
    obtain ⟨n, x, y, rest, rfl, positive, within, commands⟩ := parsePayload_some parsed
    obtain ⟨length, short, spelled⟩ := parseCommands_spells commands
    rw [length]
    refine ⟨positive, within, short, x, y, ?_⟩
    rw [byteOf_toNat_self, spelled]
    rfl
  · rintro ⟨positive, within, short, x, y, rfl⟩
    have length : (byteOf cs.length).toNat = cs.length := byteOf_toNat (by omega)
    refine (parsePayload_header _ x y _).trans ?_
    rw [length, if_pos ⟨positive, within⟩]
    exact parseCommands_flatMap cs short

/-! ## A request begun -/

/-- R129, R137: the request `r` as it begins in context `i`, with these commands to run. -/
def Request.begun (r : Request) (i : Fin 4) (cs : List Cmd) : InHand :=
  { ctx := i, line := r.line, src := wordAt r.frame 4, flow := halfAt r.frame 10, seq := halfAt r.frame 12,
    results := [], toRun := cs, sections := [], full := false }

section

variable {s : State} {r : Request} {i : Fin 4}

/-- R129, R142: a request that parses stands in hand with its commands, and an EDITOR's lease is renewed. -/
theorem beginRequest_parsed {d : Context} {cs : List Cmd} (parses : parsePayload (payloadOf r.frame) = some cs) :
    beginRequest i r (s.withContext i d) =
      (s.withContext i { d with role := d.role.renew s.timebase }).setAgent
        { s.agent with hand := .request (r.begun i cs) } := by
  have now : (s.withContext i d).timebase = s.timebase := rfl
  unfold beginRequest
  rw [parses, now, onRole_withContext]
  rfl

/-- R129, R132, R133: a new request that parses is taken in the context given to it. -/
theorem exec_newRequest {c : Context} {cs : List Cmd} (awake : s.resetLow = false)
    (executing : s.agent.state = .executing) (inHand : s.agent.hand = .taken r) (gives : s.GivesContext r i c)
    (parses : parsePayload (payloadOf r.frame) = some cs) :
    exec .requestTake s =
      .next ((s.withContext i c).setAgent { s.agent with hand := .request (r.begun i cs) }) := by
  obtain ⟨d, taken, rfl⟩ := takeRequest_given gives
  rw [exec_requestTake awake executing inHand, taken, beginRequest_parsed parses]

end

/-- Settles O28: the payloads that parse, and a new request taken in the context of its key or in one given to it. -/
theorem newRequestIsTakenInContext : Obligations.NewRequestIsTakenInContext := by
  refine ⟨fun now => ⟨rfl, fun length lease => rfl⟩, parsePayload_iff, ?_, ?_⟩
  · intro r i c cs s awake executing inHand held src line first later near parses
    exact exec_newRequest awake executing inHand (.inl ⟨c, held, src, line, first, later, near, rfl⟩) parses
  · intro r i cs s awake executing inHand unknown place parses
    exact exec_newRequest awake executing inHand (.inr ⟨unknown, place, rfl⟩) parses

/-! ## The reply -/

section

variable (s : State)

/-- R114: a reply that the service queue takes joins it, with an offer to the arbiter. -/
theorem sendReply_taken {l : Line} (takes : s.serviceTakes l = true) (frame : List Byte) (awaited : Bool) :
    sendReply l frame awaited s =
      { s with
        service := s.service.set l (s.service.get l ++
          [{ frame := frame, sort := .reply, builder := .agent, awaited := awaited }])
        offers := s.offered l } := by
  unfold sendReply
  rw [enqueue_taken s l _ takes, offer_eq]
  rfl

theorem sendReply_lost {l : Line} (lost : s.serviceTakes l = false) (frame : List Byte) (awaited : Bool) :
    sendReply l frame awaited s = { s with counters := s.counters.add (.line l .replyLost) 1 } := by
  unfold sendReply
  rw [enqueue_lost s l _ lost]
  rfl

theorem storing_some {s : State} {i : Fin 4} {c : Context} (held : s.contexts[i] = some c) (frame : List Byte) :
    s.storing i frame = s.setContext i (some { c with reply := some frame }) := by
  unfold State.storing
  rw [held]
  rfl

/-- R159: what a FULL reset finds of the contexts, the agent, the service queues and the counters is gone. -/
theorem fullReset_congr {t : State} (straps : t.straps = s.straps) (low : t.resetLow = s.resetLow) (tx : t.tx = s.tx)
    (choices : t.choices = s.choices) (pending : t.pending = s.pending) : fullReset t = fullReset s := by
  unfold fullReset powerOnFrom
  rw [straps, low, tx, choices, pending]

end

section

variable {s : State} {h : InHand}

/-- R129, R137: REQUEST_TAKE of a request in hand goes on with it. -/
theorem exec_goOn (awake : s.resetLow = false) (executing : s.agent.state = .executing)
    (inHand : s.agent.hand = .request h) : exec .requestTake s = .next (goOn h s) := by
  refine congrArg Host.Outcome.next ((awake_eq s _ awake).trans ?_)
  rw [executing, inHand]

theorem goOn_answers (none : h.toRun = []) : goOn h s = answer requestOk h s := by
  unfold goOn
  rw [none]

end

/-- Settles O31: the reply is stored, taken or lost, and the request is finished, waits for its report, or is cut off by
the FULL reset that it asked for. -/
theorem replyIsStoredAndHandedOver : Obligations.ReplyIsStoredAndHandedOver := by
  intro h c s awake executing inHand none held reply
  have built : h.reply requestOk s = reply := rfl
  have run := (exec_goOn awake executing inHand).trans (congrArg _ (goOn_answers none))
  refine ⟨_, run, ?_⟩
  clear_value reply
  cases full : h.full with
  | false =>
    rw [answer_finishes s requestOk full, built, storing_some held]
    cases takes : s.serviceTakes h.line with
    | true =>
      rw [sendReply_taken (s.setContext _ _) takes]
      exact ⟨fun _ => rfl, fun _ => ⟨rfl, rfl, rfl⟩, nofun, fun _ => rfl, nofun, nofun, fun _ => rfl⟩
    | false =>
      rw [sendReply_lost (s.setContext _ _) takes]
      exact ⟨fun _ => rfl, nofun, fun _ _ => ⟨rfl, rfl, rfl⟩, fun _ => rfl, nofun, nofun, fun _ => rfl⟩
  | true =>
    cases takes : s.serviceTakes h.line with
    | true =>
      rw [answer_awaits s requestOk full takes, built, storing_some held, sendReply_taken (s.setContext _ _) takes]
      exact ⟨fun _ => rfl, fun _ => ⟨rfl, rfl, rfl⟩, nofun, nofun, fun _ _ => rfl, nofun, fun _ => rfl⟩
    | false =>
      have resets : answer requestOk h s = fullReset s := by
        rw [answer_resets s requestOk full takes, sendReply_lost (s.storing _ _) takes]
        exact fullReset_congr s rfl rfl rfl rfl rfl
      refine ⟨fun other => ?_, nofun, nofun, nofun, nofun, fun _ _ => resets, fun other => ?_⟩ <;>
        exact absurd other (by simp)

/-! ## The results of a request -/

section

variable {s : State} {h : InHand} {c : Cmd} {rest : List Cmd}

theorem goesOn_iff (status : Status) : status.goesOn = true ↔ status = .ok ∨ status = .okUnchanged := by
  cases status <;> simp [Status.goesOn]

/-- R137: after OK and OK_UNCHANGED the next command is to run. -/
theorem finish_goesOn (front : h.toRun = c :: rest) {status : Status} (goes : status.goesOn = true)
    (data : List Byte) :
    h.finish status data =
      { h with
        results := h.results ++ [{ code := c.code, status := status, data := data }], toRun := rest
        sections := [] } := by
  unfold InHand.finish
  rw [front]
  exact if_pos goes

/-- R137: after any other status the commands behind are given NOT_RUN. -/
theorem finish_stops (front : h.toRun = c :: rest) {status : Status} (stops : ¬ status.goesOn = true)
    (data : List Byte) :
    h.finish status data =
      { h with
        results := h.results ++ { code := c.code, status := status, data := data } :: rest.map notRun, toRun := []
        sections := [] } := by
  unfold InHand.finish
  rw [front]
  dsimp only
  rw [if_neg stops, List.append_assoc]
  rfl

/-- R137, R145: a command that is no row of the opcode table is given its status. -/
theorem exec_oddCommand (awake : s.resetLow = false) (executing : s.agent.state = .executing)
    (inHand : s.agent.hand = .request h) (front : h.toRun = c :: rest) {status : Status}
    (odd : oddStatus c = some status) : exec .requestTake s = .next (finishCommand h status [] s) := by
  rw [exec_goOn awake executing inHand]
  unfold goOn
  rw [front]
  dsimp only
  rw [odd]

/-- R145 step 1: a code that names no command. -/
theorem oddStatus_unknown (unknown : c.code ∉ commandCodes) : oddStatus c = some .badCommand := if_pos unknown

/-- R156, R171: the operands that name a scope are one byte, 0 to 2. -/
theorem resetScopes_form {ops : List Byte} (scope : ops ∈ resetScopes) : ops.length = 1 ∧ (ops.getD 0 0).toNat ≤ 2 := by
  unfold resetScopes at scope
  simp only [List.mem_cons, List.not_mem_nil, or_false] at scope
  obtain rfl | rfl | rfl := scope <;> decide

/-- R156, R171: a RESET that names no scope. -/
theorem oddStatus_scopeless (reset : c.code = codeReset) (noScope : c.ops ∉ resetScopes) :
    oddStatus c = some .badValue := by
  have known : ¬ c.code ∉ commandCodes := by
    rw [reset]
    decide
  exact (if_neg known).trans (if_pos ⟨reset, noScope⟩)

end

/-- Settles O32: the statuses of the commands that are no row, and the two ways on from a finished command. -/
theorem failedCommandStopsRequest : Obligations.FailedCommandStopsRequest := by
  intro h c rest s awake executing inHand front
  refine ⟨fun unknown => ?_, fun reset form => ?_, fun status data => ⟨fun ok => ?_, fun other unchanged => ?_⟩⟩
  · exact exec_oddCommand awake executing inHand front (oddStatus_unknown unknown)
  · refine exec_oddCommand awake executing inHand front (oddStatus_scopeless reset fun scope => ?_)
    obtain ⟨one, within⟩ := resetScopes_form scope
    exact form.elim (· one) (Nat.not_lt.2 within)
  · rw [finishCommand_eq, finish_goesOn front ((goesOn_iff status).2 ok)]
  · have stops : ¬ status.goesOn = true := fun goes => ((goesOn_iff status).1 goes).elim other unchanged
    rw [finishCommand_eq, finish_stops front stops]
    rfl

end Sys2Proof.Machine
end

section
/-! SUPPORT. The edit session (R56, R141, R143, R147): OPEN in the order of its judgement, and the expiry of a lease. -/

namespace Sys2Proof.Machine

/-! ## OPEN -/

section

variable {s : State} {h : InHand} {lease : Half}

theorem exec_open {ops : List Byte} (running : s.Running h codeOpen ops) :
    exec (.openSession ops) s = .next (withForm 2 ops (openWith (halfAt ops 0)) h s) :=
  congrArg _ (awake_runCommand s _ running)

/-- R141: an OPEN of two operand bytes is judged by its lease. -/
theorem exec_openWith {ops : List Byte} (running : s.Running h codeOpen ops) (form : ops.length = 2) :
    exec (.openSession ops) s = .next (openWith (halfAt ops 0) h s) :=
  (exec_open running).trans (congrArg _ (if_pos form))

theorem leaseOk_iff (lease : Half) : leaseOk lease = true ↔ lease = 0 ∨ 10 ≤ lease.toNat ∧ lease.toNat ≤ 60000 := by
  simp [leaseOk]

theorem openWith_badLease (bad : ¬ leaseOk lease = true) : openWith lease h s = finishCommand h .badValue [] s :=
  if_pos (by simpa using bad)

/-- R141: with a lease in its bounds and an EDITOR, OPEN renews from it and names it to any other. -/
theorem openWith_editor (ok : leaseOk lease = true) {i : Fin 4} (editor : s.editor = some i) :
    openWith lease h s =
      if i = h.ctx then grantSession (s.leaseAsked lease) h s else finishCommand h .heldByOther (s.holder i) s := by
  simp only [openWith, ok, editor, Bool.not_true, Bool.false_eq_true, if_false]

/-- R141: with a lease in its bounds and no EDITOR, OPEN waits for STEADY. -/
theorem openWith_free (ok : leaseOk lease = true) (nobody : s.editor = none) :
    openWith lease h s =
      if s.store.phase = .steady then grantSession (s.leaseAsked lease) h s else finishCommand h .busy [] s := by
  simp only [openWith, ok, nobody, Bool.not_true, Bool.false_eq_true, if_false]

/-- R141: a grant in a context in use. -/
theorem grantSession_some {c : Context} (held : s.contexts[h.ctx] = some c) (length : Half) :
    grantSession length h s =
      finishCommand h .ok (bytes16 length)
        { s with
          contexts := s.contexts.set h.ctx.val
            (some { c with role := .editor length (.running (s.timebase + leaseSpan length)) }) h.ctx.isLt } := by
  unfold grantSession
  rw [onRole_some held]

theorem holder_some {i : Fin 4} {d : Context} (held : s.contexts[i] = some d) :
    s.holder i = bytes32 d.src ++ [lineCode d.line] := by
  unfold State.holder
  rw [held]

end

/-- Settles O33: the operand form, the bounds of the lease, and then who is EDITOR in which phase. -/
theorem openGrantsRenewsOrRefuses : Obligations.OpenGrantsRenewsOrRefuses := by
  intro h ops c s running held lease length granted
  have grants : grantSession (s.leaseAsked lease) h s = granted := grantSession_some held (s.leaseAsked lease)
  clear_value granted
  refine ⟨fun wrong => ?_, fun form nonzero outside => ?_, fun form within => ?_⟩
  · exact (exec_open running).trans (congrArg _ (if_neg wrong))
  · have bad : ¬ leaseOk lease = true := fun ok =>
      ((leaseOk_iff lease).1 ok).elim nonzero fun ⟨low, high⟩ => outside.elim (Nat.not_lt.2 low) (Nat.not_lt.2 high)
    rw [exec_openWith running form, openWith_badLease bad]
  · have ok := (leaseOk_iff lease).2 within
    rw [exec_openWith running form]
    refine ⟨fun own => ?_, fun i d holder other holds => ?_, fun nobody moves => ?_, fun nobody steady => ?_⟩
    · rw [openWith_editor ok own, if_pos rfl, grants]
    · rw [openWith_editor ok holder, if_neg other, holder_some holds]
    · rw [openWith_free ok nobody, if_neg moves]
    · rw [openWith_free ok nobody, if_pos steady, grants]

/-! ## The expiry of a lease -/

section

variable {s : State} {i : Fin 4}

/-- R143: the EDITOR's lease that is due now expires. -/
theorem exec_leaseExpiry (awake : s.resetLow = false) (editor : s.editor = some i)
    (due : s.leaseDue i = some s.timebase) : exec .leaseExpiry s = .next (expireLease i s) := by
  refine congrArg Host.Outcome.next ((awake_eq s _ awake).trans ?_)
  rw [editor]
  exact if_pos due

theorem leaseDue_running {c : Context} {length : Half} {due : Time} (held : s.contexts[i] = some c)
    (role : c.role = .editor length (.running due)) : s.leaseDue i = some due := by
  obtain ⟨src, line, lastSeq, reply, _⟩ := c
  obtain rfl : _ = Role.editor length (.running due) := role
  unfold State.leaseDue
  rw [held]

/-- R56, R143: the session ended, before its notice is raised: the context is READER, and DIRTY staging reverts. -/
def State.sessionEnded (s : State) (i : Fin 4) (c : Context) : State :=
  { s with
    contexts := s.contexts.set i.val (some { c with role := .reader }) i.isLt
    store := { s.store with phase := if s.store.dirty then .refilling s.timebase else s.store.phase } }

theorem expireLease_eq {c : Context} (held : s.contexts[i] = some c) :
    expireLease i s = notify (.leaseExpired i) s.timebase (s.sessionEnded i c) := by
  unfold expireLease
  dsimp only
  rw [onRole_some held]
  unfold State.sessionEnded
  dsimp only
  split <;> rfl

end

/-- R114, R167, R168: a notice event with a target whose service queue takes the frame. -/
theorem notify_taken {s : State} {g : NoticeTarget} (aimed : s.active.devpol.target = some g)
    (takes : s.serviceTakes g.line = true) (e : NoticeEvent) (t : Time) :
    notify e t s =
      { s with
        noticeSeq := s.noticeSeq + 1
        service := s.service.set g.line (s.service.get g.line ++
          [{ frame := noticeFrame e t g.station { s with noticeSeq := s.noticeSeq + 1 }, sort := .notice,
             builder := .noticeUnit, awaited := false }])
        offers := s.offered g.line } := by
  rw [notify_some s e t g aimed, enqueue_taken { s with noticeSeq := s.noticeSeq + 1 } g.line _ takes, offer_eq]
  rfl

theorem notify_lost {s : State} {g : NoticeTarget} (aimed : s.active.devpol.target = some g)
    (lost : s.serviceTakes g.line = false) (e : NoticeEvent) (t : Time) :
    notify e t s =
      { s with noticeSeq := s.noticeSeq + 1, counters := s.counters.add (.line g.line .noticeLost) 1 } := by
  rw [notify_some s e t g aimed, enqueue_lost { s with noticeSeq := s.noticeSeq + 1 } g.line _ lost]
  rfl

/-- Settles O46: the session ends, and its notice is taken, lost, or not built at all. -/
theorem leaseExpiryEndsSession : Obligations.LeaseExpiryEndsSession := by
  intro i c length s awake held role first
  have editor := editor_eq_some_iff.2 ⟨isEditor_of_role held role, first⟩
  have run := exec_leaseExpiry awake editor (leaseDue_running held role)
  rw [expireLease_eq held] at run
  refine ⟨_, run, ?_⟩
  cases target : s.active.devpol.target with
  | none =>
    rw [notify_none (s.sessionEnded i c) _ _ target]
    exact ⟨rfl, rfl, rfl, fun _ => ⟨rfl, rfl, rfl⟩, nofun, nofun, rfl⟩
  | some g =>
    cases takes : s.serviceTakes g.line with
    | true =>
      rw [notify_taken (s := s.sessionEnded i c) target takes]
      refine ⟨rfl, rfl, rfl, nofun, fun g' aimed _ => ?_, fun g' aimed lost => ?_, rfl⟩
      · obtain rfl := Option.some.inj aimed
        exact ⟨rfl, rfl, rfl⟩
      · obtain rfl := Option.some.inj aimed
        exact absurd (takes.symm.trans lost) (by simp)
    | false =>
      rw [notify_lost (s := s.sessionEnded i c) target takes]
      refine ⟨rfl, rfl, rfl, nofun, fun g' aimed taken => ?_, fun g' aimed _ => ?_, rfl⟩
      · obtain rfl := Option.some.inj aimed
        exact absurd (takes.symm.trans taken) (by simp)
      · obtain rfl := Option.some.inj aimed
        exact ⟨rfl, rfl, rfl⟩

end Sys2Proof.Machine
end

section
/-! SUPPORT. A management command as the next one of a running request: its role and its operand form (R137, R145,
R171). -/

namespace Sys2Proof.Machine

/-- R128, R137: the row of the next command of the request in hand is its meaning. -/
theorem exec_running {i : Instr} {code : Byte} {ops : List Byte} {f : InHand → State → State} {h : InHand} {s : State}
    (row : exec i s = .next (awake (runCommand code ops f) s)) (running : s.Running h code ops) :
    exec i s = .next (f h s) :=
  row.trans (congrArg _ (awake_runCommand s f running))

section

variable {h : InHand} {s : State} {n : Nat} {ops : List Byte} (f : InHand → State → State)

theorem editorOnly_editor (editor : s.isEditor h.ctx = true) : editorOnly f h s = f h s := if_pos editor

theorem editorOnly_other (other : s.isEditor h.ctx = false) : editorOnly f h s = finishCommand h .notEditor [] s :=
  if_neg (by rw [other]; exact Bool.false_ne_true)

theorem withForm_right (form : ops.length = n) : withForm n ops f h s = f h s := if_pos form

theorem withForm_wrong (wrong : ops.length ≠ n) : withForm n ops f h s = finishCommand h .badValue [] s := if_neg wrong

end

section

variable {i : Instr} {code : Byte} {ops : List Byte} {f : InHand → State → State} {h : InHand} {s : State} {n : Nat}

/-- R145 step 2: a staging command of another context than the EDITOR is not judged further. -/
theorem exec_notEditor (row : exec i s = .next (awake (runCommand code ops (editorOnly f)) s))
    (other : s.isEditor h.ctx = false) (running : s.Running h code ops) :
    exec i s = .next (finishCommand h .notEditor [] s) := by
  rw [exec_running row running, editorOnly_other f other]

/-- R145 step 4: the EDITOR's staging command of a wrong form. -/
theorem exec_wrongEditorForm (row : exec i s = .next (awake (runCommand code ops (editorOnly (withForm n ops f))) s))
    (editor : s.isEditor h.ctx = true) (wrong : ops.length ≠ n) (running : s.Running h code ops) :
    exec i s = .next (finishCommand h .badValue [] s) := by
  rw [exec_running row running, editorOnly_editor _ editor, withForm_wrong f wrong]

/-- R145 step 4: any other command of a wrong form. -/
theorem exec_wrongForm (row : exec i s = .next (awake (runCommand code ops (withForm n ops f)) s))
    (running : s.Running h code ops) (wrong : ops.length ≠ n) :
    exec i s = .next (finishCommand h .badValue [] s) := by
  rw [exec_running row running, withForm_wrong f wrong]

/-- A command of the right form is judged by its own checks. -/
theorem exec_rightForm (row : exec i s = .next (awake (runCommand code ops (withForm n ops f)) s))
    (running : s.Running h code ops) (form : ops.length = n) : exec i s = .next (f h s) := by
  rw [exec_running row running, withForm_right f form]

end

/-- Settles O34: the role comes before the form, and the form before the checks of each command. -/
theorem stagingCommandsAreJudgedByRoleFirst : Obligations.StagingCommandsAreJudgedByRoleFirst := by
  intro h ops s
  have wrong (some : ops ≠ []) : ops.length ≠ 0 := mt List.eq_nil_of_length_eq_zero some
  exact ⟨fun other => ⟨exec_notEditor rfl other, exec_notEditor rfl other, exec_notEditor rfl other,
      exec_notEditor rfl other, exec_notEditor rfl other⟩,
    fun editor some => ⟨exec_wrongEditorForm rfl editor (wrong some), exec_wrongEditorForm rfl editor (wrong some),
      exec_wrongEditorForm rfl editor (wrong some)⟩,
    exec_wrongForm rfl, exec_wrongForm rfl, exec_wrongForm rfl, exec_wrongForm rfl,
    fun running some => exec_wrongForm rfl running (wrong some)⟩

end Sys2Proof.Machine
end

section
/-! SUPPORT. RD in the order of its checks (R138, R146, R148). -/

namespace Sys2Proof.Machine

/-! ## Lists that do not fit -/

/-- The items up to one that does not fit the room. -/
theorem fitItems_cut (kept : List (List Byte)) (x : List Byte) (rest : List (List Byte)) (room : Nat)
    (fits : (kept.map List.length).sum ≤ room) (above : room < (kept.map List.length).sum + x.length) :
    fitItems room (kept ++ x :: rest) = kept := by
  induction kept generalizing room with
  | nil =>
    rw [List.map_nil, List.sum_nil] at above
    rw [List.nil_append, fitItems, if_neg (by omega)]
  | cons y ys ih =>
    rw [List.map_cons, List.sum_cons] at fits above
    rw [List.cons_append, fitItems, if_pos (by omega), ih _ (by omega) (by omega)]

/-- R138: a list that is cut short returns TRUNCATED and the items before the cut. -/
theorem finishList_cut {h : InHand} {s : State} (kept : List (List Byte)) (x : List Byte) (rest : List (List Byte))
    (fits : (kept.map List.length).sum ≤ resultRoom h)
    (above : resultRoom h < (kept.map List.length).sum + x.length) :
    finishList h (kept ++ x :: rest) s = finishCommand h .truncated kept.flatten s := by
  have short : kept.length ≠ (kept ++ x :: rest).length := by
    rw [List.length_append, List.length_cons]
    omega
  unfold finishList
  simp only [fitItems_cut kept x rest _ fits above, if_neg short]

/-! ## The operands of RD -/

def rdOperands (bank table : Byte) (first count : Half) : List Byte :=
  [bank, table] ++ bytes16 first ++ bytes16 count

section

variable (bank table : Byte) (first count : Half)

theorem rdOperands_first : halfAt (rdOperands bank table first count) 2 = first := by
  rw [rdOperands, List.append_assoc]
  exact halfAt_append [bank, table] (bytes16 count) first

theorem rdOperands_count : halfAt (rdOperands bank table first count) 4 = count := by
  rw [rdOperands, ← List.append_nil (bytes16 count)]
  exact halfAt_append ([bank, table] ++ bytes16 first) [] count

end

/-- Table 11-5: the bank code is 00H for ACTIVE and 01H for STAGING. -/
theorem bankOperand_eq (bank : Byte) :
    bankOperand bank = if 1 < bank.toNat then none else some (decide (bank = 1)) := by
  revert bank
  decide +kernel

theorem rdBank_eq (s : State) (bank : Byte) (known : bank.toNat ≤ 1) :
    s.rdBank (decide (bank = 1)) = if bank = 0 then s.store.activeBank else s.store.stagingBank := by
  obtain rfl | rfl : bank = 0 ∨ bank = 1 := by bv_omega
  · rfl
  · rfl

/-! ## The checks of RD -/

/-- R148: a bank other than ACTIVE and STAGING, or a count of 0 or above 1024. -/
def RdBadForm (bank : Byte) (count : Half) : Prop := 1 < bank.toNat ∨ count = 0 ∨ 1024 < count.toNat

section

variable {bank table : Byte} {first count : Half} {h : InHand} {s : State}

theorem readTable_badForm (bad : RdBadForm bank count) :
    readTable (rdOperands bank table first count) h s = finishCommand h .badValue [] s := by
  unfold readTable
  dsimp only
  rw [rdOperands_count, show byteAt (rdOperands bank table first count) 0 = bank from rfl, bankOperand_eq]
  by_cases unknown : 1 < bank.toNat
  · rw [if_pos unknown]
  · have counted : count.toNat = 0 ∨ 1024 < count.toNat :=
      (bad.resolve_left unknown).imp_left fun zero => by rw [zero]; rfl
    rw [if_neg unknown]
    exact if_pos counted

/-- The entries that RD lists, from the bank that its code names. -/
def State.rdEntries (s : State) (bank : Byte) (t : TableId) (first count : Half) : List (List Byte) :=
  (List.range count.toNat).map fun k =>
    (if bank = 0 then s.store.activeBank else s.store.stagingBank).entryBytes t (first.toNat + k)

/-- Past its bank and its count, RD is judged by its table, its range and the phase. -/
theorem readTable_form (good : ¬ RdBadForm bank count) :
    readTable (rdOperands bank table first count) h s =
      (TableId.ofCode table).elim (finishCommand h .badTable [] s) fun t =>
        if t.entries < first.toNat + count.toNat then finishCommand h .badIndex [] s
        else if bank = 1 ∧ s.store.phase ≠ .steady then finishCommand h .busy [] s
        else finishList h (s.rdEntries bank t first count) s := by
  obtain ⟨known, nonzero, most⟩ : ¬ 1 < bank.toNat ∧ count ≠ 0 ∧ ¬ 1024 < count.toNat := by
    simpa only [RdBadForm, not_or] using good
  have positive : count.toNat ≠ 0 := fun zero => nonzero (BitVec.eq_of_toNat_eq zero)
  unfold readTable
  dsimp only
  rw [rdOperands_first, rdOperands_count, show byteAt (rdOperands bank table first count) 0 = bank from rfl,
    show byteAt (rdOperands bank table first count) 1 = table from rfl, bankOperand_eq, if_neg known]
  dsimp only
  rw [if_neg (not_or.2 ⟨positive, most⟩), rdBank_eq s bank (by omega)]
  cases TableId.ofCode table with
  | none => rfl
  | some t =>
    have range : (t.entries ≤ first.toNat ∨ t.entries < first.toNat + count.toNat) ↔
        t.entries < first.toNat + count.toNat := by omega
    simp only [range, decide_eq_true_eq]
    rfl

end

/-- Settles O36: the room, and RD in the order of its checks. -/
theorem readReturnsEntriesThatFit : Obligations.ReadReturnsEntriesThatFit := by
  refine ⟨fun _ => rfl, ?_⟩
  intro h bank table first count s ops running badForm
  have run : exec (.rd ops) s = .next (readTable (rdOperands bank table first count) h s) :=
    exec_rightForm (f := readTable ops) rfl running rfl
  rw [run]
  refine ⟨fun bad => by rw [readTable_badForm bad], fun good unnamed => ?_, fun t good named => ?_⟩
  · rw [readTable_form good, unnamed]
    rfl
  · rw [readTable_form good, named, Option.elim_some]
    refine ⟨fun beyond => by rw [if_pos beyond], fun within => ?_⟩
    rw [if_neg (by omega)]
    refine ⟨fun staging unsteady => by rw [if_pos ⟨staging, unsteady⟩], fun readable => ?_⟩
    have free : ¬ (bank = 1 ∧ s.store.phase ≠ .steady) := by
      rintro ⟨rfl, unsteady⟩
      exact readable.elim (by decide) unsteady
    rw [if_neg free]
    refine ⟨fun fits => congrArg _ (finishList_all h (s.rdEntries bank t first count) s fits), fun above => ?_⟩
    obtain ⟨n, le, fits, next, -, ends⟩ := finishList_spec h (s.rdEntries bank t first count) s
    have short : n < (s.rdEntries bank t first count).length := by
      refine lt_of_le_of_ne le fun whole => ?_
      rw [whole, List.take_length] at fits
      exact absurd fits (Nat.not_le.2 above)
    rw [if_neg short.ne] at ends
    exact ⟨n, short, fits, next short, congrArg _ ends⟩

end Sys2Proof.Machine
end

section
/-! SUPPORT. STAT (R138, R151, R170): the counters that a group and a selector name, those read, and those cleared. -/

namespace Sys2Proof.Machine

/-! ## Groups and selectors -/

theorem statTarget_unknown {group : Byte} (unknown : 4 < group.toNat) (selector : Byte) :
    statTarget group selector = none := by
  have other : group ≠ 0x00#8 ∧ group ≠ 0x01#8 ∧ group ≠ 0x02#8 ∧ group ≠ 0x03#8 ∧ group ≠ 0x04#8 := by
    refine ⟨?_, ?_, ?_, ?_, ?_⟩ <;> rintro rfl <;> exact absurd unknown (by decide)
  obtain ⟨arrival, egress, line, hits, capture⟩ := other
  rw [statTarget, if_neg arrival, if_neg egress, if_neg line, if_neg hits, if_neg capture]

theorem statTarget_north (c : TrafficClass) : statTarget 0x01#8 (byteOf c.val) = some (some (.egress .n c)) := by
  revert c
  decide

theorem statTarget_south (c : TrafficClass) : statTarget 0x01#8 (byteOf (8 + c.val)) = some (some (.egress .s c)) := by
  revert c
  decide

/-- R151: the number of selectors of a group. -/
def statSelectors (group : Byte) : Nat := if group = 1 then 16 else if group = 0 ∨ group = 2 then 2 else 1

theorem statTarget_outside {group : Byte} (known : group.toNat ≤ 4) {selector : Byte}
    (outside : statSelectors group ≤ selector.toNat) : statTarget group selector = some none := by
  have beyond : ∀ k : Byte, k.toNat < statSelectors group → selector ≠ k := by
    rintro k within rfl
    exact absurd within (Nat.not_lt.2 outside)
  obtain rfl | rfl | rfl | rfl | rfl : group = 0 ∨ group = 1 ∨ group = 2 ∨ group = 3 ∨ group = 4 := by bv_omega
  · simp [statTarget, beyond 0#8 (by decide), beyond 1#8 (by decide)]
  · have most : 16 ≤ selector.toNat := outside
    simp [statTarget, show ¬ selector.toNat < 8 by omega, show ¬ selector.toNat - 8 < 8 by omega]
  · simp [statTarget, beyond 0#8 (by decide), beyond 1#8 (by decide)]
  · simp [statTarget, beyond 0#8 (by decide)]
  · simp [statTarget, beyond 0#8 (by decide)]

/-! ## The counters of a group -/

/-- The items of a vector in the order of names that stand for its places. -/
theorem toList_of_places {α ι : Type} {n : Nat} {place : ι → Fin n} {names : List ι}
    (places : names.map place = List.finRange n) (v : Vector α n) : v.toList = names.map fun k => v[place k] := by
  have items := toList_map_finRange v id
  rw [List.map_id, ← places, List.map_map] at items
  exact items

section

variable (b : Counters) (l : Line) (c : TrafficClass)

theorem group_arrival :
    b.group (.arrival l) =
      [.framesReceived, .octetsReceived, .integrity, .length, .hop, .screenAddressed, .terminated, .ruleDrop,
        .stationDrop, .groupMiss, .unmatchedDrop, .mgmtAccepted, .mgmtOverflow, .mgmtRefused].map
        (fun k => b.read (.arrival l k)) :=
  toList_of_places (place := ArrivalCounter.index) (by decide) _

theorem group_egress :
    b.group (.egress l c) =
      [.accepted, .launchedFrames, .launchedOctets, .queueLimit, .noCell, .residence, .flush, .launchAbort,
        .windowHolds].map (fun k => b.read (.egress l c k)) :=
  toList_of_places (place := ClassCounter.index) (by decide) _

theorem group_line :
    b.group (.line l) =
      [.cadenceFrames, .forcedEntries, .slips, .serviceFrames, .replyLost, .noticeLost].map
        (fun k => b.read (.line l k)) :=
  toList_of_places (place := LineCounter.index) (by decide) _

theorem group_hits :
    b.group .hits =
      ((List.finRange 31).map HitCounter.station ++ (List.finRange 8).map HitCounter.rule ++
        [HitCounter.groupPass, .groupMiss, .unmatchedPass]).map (fun k => b.read (.hit k)) :=
  toList_of_places (place := HitCounter.index) (by decide) _

theorem group_capture : b.group .capture = [.taken, .missed].map (fun k => b.read (.capture k)) :=
  toList_of_places (place := CaptureCounter.index) (by decide) _

end

/-! ## The leading counters of a group cleared -/

theorem clearFirst_toList {m : Nat} (v : Vector Counter m) (n : Nat) :
    (clearFirst v n).toList = (v.toList.take n).map Counter.clear ++ v.toList.drop n := by
  refine List.ext_getElem (by simp; omega) fun i inside _ => ?_
  have within : i < m := by simpa using inside
  by_cases leading : i < n
  · rw [List.getElem_append_left (by simp; omega)]
    simp [clearFirst, leading]
  · rw [List.getElem_append_right (by simp; omega)]
    simp [clearFirst, leading, show n + (i - min n m) = i by omega]

theorem clearGroup_group (b : Counters) (t : StatTarget) (n : Nat) :
    (b.clearGroup t n).group t = ((b.group t).take n).map Counter.clear ++ (b.group t).drop n := by
  cases t with
  | arrival l => exact (congrArg Vector.toList (PerLine.get_set_same _ _ _)).trans (clearFirst_toList _ n)
  | egress l c =>
    refine (congrArg Vector.toList ?_).trans (clearFirst_toList _ n)
    simp [Counters.clearGroup, PerLine.get_set_same]
  | line l => exact (congrArg Vector.toList (PerLine.get_set_same _ _ _)).trans (clearFirst_toList _ n)
  | hits => exact clearFirst_toList _ n
  | capture => exact clearFirst_toList _ n

theorem clearGroup_other (b : Counters) {t t' : StatTarget} (other : t' ≠ t) (n : Nat) :
    (b.clearGroup t n).group t' = b.group t' := by
  cases t <;> cases t'
  case arrival.arrival l l' =>
    have line : l' ≠ l := by simpa using other
    simp only [Counters.clearGroup, Counters.group, PerLine.get_set_ne _ _ _ _ line]
  case line.line l l' =>
    have line : l' ≠ l := by simpa using other
    simp only [Counters.clearGroup, Counters.group, PerLine.get_set_ne _ _ _ _ line]
  case egress.egress l c l' c' =>
    by_cases same : l' = l
    · subst same
      have row : c' ≠ c := by simpa using other
      simp only [Counters.clearGroup, Counters.group, PerLine.get_set_same, getElem_set_row, if_neg row]
    · simp only [Counters.clearGroup, Counters.group, PerLine.get_set_ne _ _ _ _ same]
  case hits.hits => exact absurd rfl other
  case capture.capture => exact absurd rfl other
  all_goals simp only [Counters.clearGroup, Counters.group]

/-! ## STAT -/

section

variable {group selector clear : Byte} {h : InHand} {s : State}

theorem statNow_badValue (bad : 4 < group.toNat ∨ 1 < clear.toNat) :
    statNow [group, selector, clear] h s = finishCommand h .badValue [] s := by
  unfold statNow
  rw [show byteAt [group, selector, clear] 2 = clear from rfl, show byteAt [group, selector, clear] 0 = group from rfl]
  by_cases flag : 1 < clear.toNat
  · exact if_pos flag
  · rw [if_neg flag, statTarget_unknown (bad.resolve_right flag)]

/-- Past its clear flag, STAT is judged by the group and selector. -/
theorem statNow_flag (flag : clear.toNat ≤ 1) {x : Option StatTarget} (named : statTarget group selector = some x) :
    statNow [group, selector, clear] h s =
      x.elim (finishCommand h .badIndex [] s) fun t => readCounters t (clear == 1#8) h s := by
  unfold statNow
  rw [show byteAt [group, selector, clear] 2 = clear from rfl, show byteAt [group, selector, clear] 0 = group from rfl,
    show byteAt [group, selector, clear] 1 = selector from rfl, if_neg (by omega), named]
  cases x <;> rfl

/-- R151: the counters of a group, each in its bytes. -/
def Counters.items (b : Counters) (t : StatTarget) : List (List Byte) := (b.group t).map Counter.bytes

/-- The state after the leading `n` counters of a group were read, and cleared if the flag asks for it. -/
def State.cleared (s : State) (t : StatTarget) (clear : Bool) (n : Nat) : State :=
  { s with counters := if clear then s.counters.clearGroup t n else s.counters }

theorem readCounters_eq (t : StatTarget) (clear : Bool) :
    readCounters t clear h s =
      finishList h (s.counters.items t)
        (s.cleared t clear (fitItems (resultRoom h) (s.counters.items t)).length) := by
  cases clear <;> rfl

/-- R138, R170: the counters read are the leading ones that fit, and the same are cleared. -/
theorem readCounters_spec (h : InHand) (s : State) (t : StatTarget) (clear : Bool) :
    ∃ n ≤ (s.counters.items t).length,
      (((s.counters.items t).take n).map List.length).sum ≤ resultRoom h ∧
      (n < (s.counters.items t).length →
        resultRoom h < (((s.counters.items t).take (n + 1)).map List.length).sum) ∧
      readCounters t clear h s =
        finishCommand h (if n = (s.counters.items t).length then .ok else .truncated)
          ((s.counters.items t).take n).flatten (s.cleared t clear n) := by
  rw [readCounters_eq]
  obtain ⟨n, le, fits, next, kept, ends⟩ := finishList_spec h (s.counters.items t)
    (s.cleared t clear (fitItems (resultRoom h) (s.counters.items t)).length)
  exact ⟨n, le, fits, next, by rw [ends, kept]⟩

end

/-- Settles O41: the names of the counters, the counters of each group, STAT in the order of its checks, and the groups
after a clear. -/
theorem statReadsAndClearsGroup : Obligations.StatReadsAndClearsGroup := by
  refine ⟨fun c => ⟨rfl, rfl, statTarget_north c, statTarget_south c, rfl, rfl, rfl, rfl⟩,
    fun b l c => ⟨group_arrival b l, group_egress b l c, group_line b l, group_hits b, group_capture b⟩,
    fun h group selector clear s running => ?_,
    fun b t n => ⟨clearGroup_group b t n, fun t' other => clearGroup_other b other n, Counter.clear_toNat⟩⟩
  have run : exec (.stat [group, selector, clear]) s = .next (statNow [group, selector, clear] h s) :=
    exec_rightForm (f := statNow [group, selector, clear]) rfl running rfl
  rw [run]
  refine ⟨fun bad => by rw [statNow_badValue bad], fun known flag outside => ?_, ?_⟩
  · rw [statNow_flag flag (statTarget_outside known outside), Option.elim_none]
  · intro t named flag items
    obtain ⟨n, le, fits, next, ends⟩ := readCounters_spec h s t (clear == 1#8)
    refine ⟨n, le, fits, next, ?_⟩
    rw [statNow_flag flag named, Option.elim_some, ends, State.cleared]
    simp only [beq_iff_eq]
    rfl

end Sys2Proof.Machine
end

section
/-! SUPPORT. CAPT and FREE (R138, R154, R155): the record of Table 11-9, and the items of a slot that fit. -/

namespace Sys2Proof.Machine

/-! ## The slot and its items -/

theorem slotOperand_none {slot : Byte} (beyond : 3 < slot.toNat) : slotOperand slot = none := dif_neg (by omega)

theorem slotOperand_some {slot : Byte} {k : Fin 4} (names : slot.toNat = k.val) : slotOperand slot = some k := by
  have within : slot.toNat < 4 := by omega
  rw [slotOperand, dif_pos within]
  exact congrArg some (Fin.ext names)

theorem triggerBytes_length (t : Trigger) : (triggerBytes t).length = 2 := by cases t <;> rfl

/-- Table 11-9: the line, trigger and outcome of a record are coded; its other fields stand as they are. -/
theorem recordBytes_spelled (r : CaptureRecord) (captured : Nat) {line : Byte} {trigger outcome : List Byte}
    (lineByte : lineCode r.arrival = line) (triggerField : triggerBytes r.trigger = trigger)
    (outcomeField : [outcomeCode r.outcome, outcomeClassByte r.outcome] = outcome) :
    recordBytes r captured = [line] ++ bytes32 r.start ++ bytes32 r.generation ++ trigger ++ halfOf r.total ++
      [byteOf captured] ++ outcome := by
  rw [← lineByte, ← triggerField, ← outcomeField]
  simp [recordBytes]

theorem recordBytes_length (r : CaptureRecord) (captured : Nat) : (recordBytes r captured).length = 16 := by
  simp [recordBytes, triggerBytes_length, halfOf]

section

variable {h : InHand} {s : State} {slot : Byte} {k : Fin 4}

/-! ## CAPT -/

theorem captNow_badIndex (beyond : 3 < slot.toNat) : captNow [slot] h s = finishCommand h .badIndex [] s := by
  unfold captNow
  rw [show byteAt [slot] 0 = slot from rfl, slotOperand_none beyond]

theorem captNow_lists (names : slot.toNat = k.val) : captNow [slot] h s = finishList h (s.capture.slot k).items s := by
  unfold captNow
  rw [show byteAt [slot] 0 = slot from rfl, slotOperand_some names]

/-- The first item of a slot is its state. -/
theorem items_state_first (x : Slot) : ∃ rest, x.items = [x.code] :: rest := by cases x <;> exact ⟨_, rfl⟩

/-- R138: without room for the state of the slot, CAPT returns no data. -/
theorem finishList_noRoom (x : Slot) (none : resultRoom h = 0) :
    finishList h x.items s = finishCommand h .truncated [] s := by
  obtain ⟨rest, items⟩ := items_state_first x
  rw [items]
  exact finishList_cut [] [x.code] rest (Nat.zero_le _) (by simp [none])

theorem finishList_held_all (r : CaptureRecord) (bs : List Byte) (fits : 17 + bs.length ≤ resultRoom h) :
    finishList h (Slot.held r bs).items s =
      finishCommand h .ok ([0x02#8] ++ recordBytes r bs.length ++ bs) s := by
  rw [finishList_all]
  · simp [Slot.items, Slot.code]
  · simp only [Slot.items, List.map_cons, List.map_nil, List.sum_cons, List.sum_nil, List.length_singleton,
      recordBytes_length]
    omega

theorem finishList_held_record (r : CaptureRecord) (bs : List Byte) (fits : 17 ≤ resultRoom h)
    (above : resultRoom h < 17 + bs.length) :
    finishList h (Slot.held r bs).items s = finishCommand h .truncated ([0x02#8] ++ recordBytes r bs.length) s := by
  have lengths : ([[0x02#8], recordBytes r bs.length].map List.length).sum = 17 := by simp [recordBytes_length]
  have bytes : [[0x02#8], recordBytes r bs.length].flatten = [0x02#8] ++ recordBytes r bs.length := by simp
  rw [← bytes]
  exact finishList_cut [[0x02#8], recordBytes r bs.length] bs [] (by rwa [lengths]) (by rwa [lengths])

theorem finishList_held_state (r : CaptureRecord) (bs : List Byte) (fits : 1 ≤ resultRoom h)
    (above : resultRoom h < 17) :
    finishList h (Slot.held r bs).items s = finishCommand h .truncated [0x02#8] s :=
  finishList_cut [[0x02#8]] (recordBytes r bs.length) [bs] fits (by rw [recordBytes_length]; exact above)

/-! ## FREE -/

theorem freeNow_badIndex (beyond : 3 < slot.toNat) : freeNow [slot] h s = finishCommand h .badIndex [] s := by
  unfold freeNow
  rw [show byteAt [slot] 0 = slot from rfl, slotOperand_none beyond]

theorem freeNow_held (names : slot.toNat = k.val) {r : CaptureRecord} {bs : List Byte}
    (held : s.capture.slot k = .held r bs) :
    freeNow [slot] h s = finishCommand h .ok [] { s with capture := s.capture.empty1 k } := by
  simp only [freeNow, show byteAt [slot] 0 = slot from rfl, slotOperand_some names, held]
  rfl

theorem freeNow_empty (names : slot.toNat = k.val) (empty : s.capture.slot k = .empty) :
    freeNow [slot] h s = finishCommand h .ok [] s := by
  simp only [freeNow, show byteAt [slot] 0 = slot from rfl, slotOperand_some names, empty]

theorem freeNow_filling (names : slot.toNat = k.val) {r : CaptureRecord} {bs : List Byte}
    (filling : s.capture.slot k = .filling r bs) : freeNow [slot] h s = finishCommand h .busy [] s := by
  simp only [freeNow, show byteAt [slot] 0 = slot from rfl, slotOperand_some names, filling]

end

/-- Settles O42: the record in the bytes of Table 11-9, the items of a slot cut at the room, and the slots after FREE.
-/
theorem captureSlotsAreReadAndFreed : Obligations.CaptureSlotsAreReadAndFreed := by
  intro h slot s
  have capt (running : s.Running h 0x21#8 [slot]) : exec (.capt [slot]) s = .next (captNow [slot] h s) :=
    exec_rightForm (f := captNow [slot]) rfl running rfl
  have free (running : s.Running h 0x22#8 [slot]) : exec (.free [slot]) s = .next (freeNow [slot] h s) :=
    exec_rightForm (f := freeNow [slot]) rfl running rfl
  refine ⟨fun running beyond => by rw [capt running, captNow_badIndex beyond],
    fun running beyond => by rw [free running, freeNow_badIndex beyond],
    fun k names => ⟨fun running => ?_, fun running => ?_⟩⟩
  · rw [capt running, captNow_lists names]
    refine ⟨fun r bs held => ?_, fun none => congrArg _ (finishList_noRoom _ none), fun r bs filling some => ?_,
      fun empty some => ?_⟩
    · intro record
      have spelled : recordBytes r bs.length = record := by
        refine recordBytes_spelled r bs.length ?_ ?_ ?_
        · cases r.arrival <;> rfl
        · cases r.trigger <;> rfl
        · cases r.outcome with
          | pending | management | pass _ => rfl
          | drop reason => cases reason <;> rfl
      rw [held, ← spelled]
      exact ⟨fun fits => congrArg _ (finishList_held_all r bs fits),
        fun fits above => congrArg _ (finishList_held_record r bs fits above),
        fun fits above => congrArg _ (finishList_held_state r bs fits above)⟩
    · rw [filling]
      exact congrArg _ (finishList_all h [[0x01#8]] s some)
    · rw [empty]
      exact congrArg _ (finishList_all h [[0x00#8]] s some)
  · rw [free running]
    refine ⟨fun r bs held => ⟨s.capture.empty1 k, congrArg _ (freeNow_held names held), ?_, rfl, fun j other => ?_⟩,
      fun empty => congrArg _ (freeNow_empty names empty),
      fun r bs filling => congrArg _ (freeNow_filling names filling)⟩
    · rw [CaptureStore.slot_empty1, if_pos rfl]
    · rw [CaptureStore.slot_empty1, if_neg other]

end Sys2Proof.Machine
end

section
/-! SUPPORT. RESET (R156 to R159): the traffic cleared, line by line, and the scopes that act at once. -/

namespace Sys2Proof.Machine

/-! ## One egress side cleared -/

/-- R125: the cadence unit of line `p` after a TRAFFIC reset. -/
def State.clearedUnit (s : State) (p : Line) : Cadence :=
  { s.cadence.get p with
    owed := [], forced := false
    timer := if s.isUp p = true ∧ (s.portPol p).tc ≠ 0
      then .running (s.timebase + (s.portPol p).tc.setWidth 32) else .stopped }

/-- From `s` to `t` everything stands that the TRAFFIC reset of the egress side of line `p` reads or writes, but for the
pool and the counters of other groups. -/
structure EgressStands (p : Line) (s t : State) : Prop where
  queue : ∀ c, t.queue p c = s.queue p c
  lane : ∀ c, t.lane p c = s.lane p c
  unit : t.cadence.get p = s.cadence.get p
  isUp : t.isUp p = s.isUp p
  store : t.store = s.store
  timebase : t.timebase = s.timebase
  flushed : ∀ c, t.counters.read (.egress p c .flush) = s.counters.read (.egress p c .flush)

theorem EgressStands.queuedCells {p : Line} {s t : State} (stands : EgressStands p s t) :
    t.queuedCells p = s.queuedCells p := by
  simp only [State.queuedCells, stands.queue]

theorem EgressStands.clearedUnit {p : Line} {s t : State} (stands : EgressStands p s t) :
    t.clearedUnit p = s.clearedUnit p := by
  have policy : t.portPol p = s.portPol p := by
    unfold State.portPol State.active
    rw [stands.store]
  unfold State.clearedUnit
  rw [stands.unit, stands.isUp, stands.timebase, policy]

/-- R91, R97, R125: from `s` to `t` the egress side of line `p` has been cleared. -/
structure EgressCleared (p : Line) (s t : State) : Prop where
  queue : ∀ c, t.queue p c = []
  lane : ∀ c, t.lane p c = PacerLane.empty
  unit : t.cadence.get p = s.clearedUnit p
  flushed : ∀ c, t.counters.read (.egress p c .flush) =
    (s.counters.read (.egress p c .flush)).add (s.queue p c).length

/-- A side cleared between acts that leave it alone. -/
theorem EgressCleared.between {p : Line} {s t u v : State} (before : EgressStands p s t) (cleared : EgressCleared p t u)
    (after : EgressStands p u v) : EgressCleared p s v where
  queue c := (after.queue c).trans (cleared.queue c)
  lane c := (after.lane c).trans (cleared.lane c)
  unit := (after.unit.trans cleared.unit).trans before.clearedUnit
  flushed c := by rw [after.flushed, cleared.flushed, before.flushed, before.queue]

theorem EgressStands.refl (p : Line) (s : State) : EgressStands p s s := by constructor <;> intros <;> rfl

theorem EgressStands.trans {p : Line} {s t u : State} (h : EgressStands p s t) (k : EgressStands p t u) :
    EgressStands p s u where
  queue c := (k.queue c).trans (h.queue c)
  lane c := (k.lane c).trans (h.lane c)
  unit := k.unit.trans h.unit
  isUp := k.isUp.trans h.isUp
  store := k.store.trans h.store
  timebase := k.timebase.trans h.timebase
  flushed c := (k.flushed c).trans (h.flushed c)

section

variable (p : Line) (s : State)

/-- The flush of a line, and then its cadence unit cleared. -/
theorem clearEgress_eq :
    clearEgress p s = { flushLine p s with cadence := s.cadence.set p (s.clearedUnit p) } := by
  obtain ⟨qs, pa, po, ct, flushed⟩ := flushLine_shape s p
  unfold clearEgress cadenceTraffic
  rw [startTimer_eq, flushed]
  simp only [State.setCadence, PerLine.get_set_same, PerLine.set_set, State.clearedUnit, Bool.and_eq_true, bne_iff_ne]
  rfl

theorem clearEgress_shape :
    ∃ qs pa po ca ct, clearEgress p s =
      { s with queues := qs, pacer := pa, pool := po, cadence := ca, counters := ct } := by
  obtain ⟨qs, pa, po, ct, flushed⟩ := flushLine_shape s p
  rw [clearEgress_eq, flushed]
  exact ⟨_, _, _, _, _, rfl⟩

theorem clearEgress_cleared : EgressCleared p s (clearEgress p s) := by
  rw [clearEgress_eq]
  exact ⟨flushLine_queue s p, flushLine_lane s p, PerLine.get_set_same _ _ _, flushLine_read_flush s p⟩

theorem clearEgress_pool : s.pool.Returned p (s.queuedCells p) (clearEgress p s).pool := by
  rw [clearEgress_eq]
  exact flushLine_pool s p

theorem clearEgress_counts : s.CountsOnly (clearEgress p s) fun id => ∃ c, id = .egress p c .flush := by
  rw [clearEgress_eq]
  exact flushLine_counts s p

theorem clearEgress_flushes : s.CountsOnly (clearEgress p s) fun id => ∃ q c, id = .egress q c .flush :=
  (clearEgress_counts p s).mono fun _ moved => ⟨p, moved⟩

/-- The TRAFFIC reset of one egress side leaves the other alone. -/
theorem clearEgress_stands : EgressStands p.opposite s (clearEgress p s) := by
  have reach := clearEgress_reach s p
  refine ⟨fun c => ?_, fun c => ?_, reach.cadence, reach.isUp _, reach.store, reach.timebase, fun c => ?_⟩
  · simp only [State.queue, reach.queues]
  · simp only [State.lane, reach.pacer]
  · exact clearEgress_counts p s _ (by simp)

end

/-! ## The whole TRAFFIC reset -/

section

variable (s : State)

/-- R13, R161: the part of a TRAFFIC reset that comes before the egress sides. -/
def discardTraffic : State := (discardFrame .s (discardFrame .n s)).setCapture CaptureStore.empty

theorem trafficReset_eq : trafficReset s = clearEgress .s (clearEgress .n (discardTraffic s)) := rfl

theorem discardFrame_eq (l : Line) :
    discardFrame l s = { s with
      port := s.port.set l { s.port.get l with rx := (s.port.get l).rx.discarded }
      cls := s.cls.set l (s.cls.get l).marked } := rfl

theorem discardTraffic_port (l : Line) :
    (discardTraffic s).port.get l = { s.port.get l with rx := (s.port.get l).rx.discarded } := by
  cases l <;> rfl

theorem discardTraffic_shape :
    ∃ po cl, discardTraffic s = { s with port := po, cls := cl, capture := CaptureStore.empty } := by
  unfold discardTraffic
  rw [discardFrame_eq, discardFrame_eq]
  exact ⟨_, _, rfl⟩

theorem discardTraffic_stands (p : Line) : EgressStands p s (discardTraffic s) := by
  have up : (discardTraffic s).isUp p = s.isUp p := by simp only [State.isUp, discardTraffic_port]
  obtain ⟨_, _, shape⟩ := discardTraffic_shape s
  rw [shape] at up ⊢
  exact ⟨fun _ => rfl, fun _ => rfl, rfl, up, rfl, rfl, fun _ => rfl⟩

theorem trafficReset_port (l : Line) :
    (trafficReset s).port.get l = { s.port.get l with rx := (s.port.get l).rx.discarded } := by
  rw [trafficReset_eq, (clearEgress_reach _ .s).port, (clearEgress_reach _ .n).port, discardTraffic_port]

theorem trafficReset_cleared (p : Line) : EgressCleared p s (trafficReset s) := by
  have north := clearEgress_stands .n (discardTraffic s)
  have south := clearEgress_stands .s (clearEgress .n (discardTraffic s))
  cases p with
  | n => exact (clearEgress_cleared .n _).between (discardTraffic_stands s .n) south
  | s => exact (clearEgress_cleared .s _).between ((discardTraffic_stands s .s).trans north) (.refl .s _)

theorem trafficReset_counts : s.CountsOnly (trafficReset s) fun id => ∃ p c, id = .egress p c .flush := by
  obtain ⟨_, _, shape⟩ := discardTraffic_shape s
  have discards : s.CountsOnly (discardTraffic s) fun id => ∃ p c, id = .egress p c .flush := .of_eq (by rw [shape])
  rw [trafficReset_eq]
  exact (discards.trans (clearEgress_flushes .n _)).trans (clearEgress_flushes .s _)

/-- R79, R80: the queued cells of both lines return, and nothing else moves in the pool but its arming. -/
theorem trafficReset_pool :
    (trafficReset s).pool.free = s.pool.free + s.queuedCells .n + s.queuedCells .s ∧
      (∀ p, (trafficReset s).pool.used.get p = s.pool.used.get p - s.queuedCells p) ∧
      s.pool.Rearms (trafficReset s).pool := by
  obtain ⟨_, _, shape⟩ := discardTraffic_shape s
  have pool : (discardTraffic s).pool = s.pool := by rw [shape]
  obtain ⟨free, used, rearms⟩ := clearEgress_pool .n (discardTraffic s)
  obtain ⟨free', used', rearms'⟩ := clearEgress_pool .s (clearEgress .n (discardTraffic s))
  rw [(discardTraffic_stands s .n).queuedCells, pool] at free used
  have southCells : (clearEgress .n (discardTraffic s)).queuedCells .s = s.queuedCells .s :=
    ((discardTraffic_stands s .s).trans (clearEgress_stands .n _)).queuedCells
  rw [southCells] at free' used'
  rw [pool] at rearms
  rw [trafficReset_eq]
  refine ⟨by rw [free', free], fun p => ?_, rearms_trans rearms rearms'⟩
  rw [used', used]
  cases p <;> rfl

theorem trafficReset_shape :
    trafficReset s = { s with
      port := (trafficReset s).port, cls := (trafficReset s).cls, pool := (trafficReset s).pool
      queues := (trafficReset s).queues, pacer := (trafficReset s).pacer, cadence := (trafficReset s).cadence
      capture := (trafficReset s).capture, counters := (trafficReset s).counters } := by
  obtain ⟨_, _, _, _, _, north⟩ := clearEgress_shape .n (discardTraffic s)
  obtain ⟨_, _, _, _, _, south⟩ := clearEgress_shape .s (clearEgress .n (discardTraffic s))
  obtain ⟨_, _, discards⟩ := discardTraffic_shape s
  rw [trafficReset_eq, south, north, discards]

theorem slot_empty (k : Fin 4) : CaptureStore.empty.slot k = .empty := by revert k; decide

end

/-- Settles O45: the frames discarded, both egress sides cleared one after the other, and the capture slots emptied. -/
theorem resetTrafficClearsTraffic : Obligations.ResetTrafficClearsTraffic := by
  intro h s running
  have run : exec .resetTraffic s = .next (finishCommand h .ok [] (trafficReset s)) :=
    exec_running (f := clearTraffic) rfl running
  have cleared := trafficReset_cleared s
  have port := trafficReset_port s
  have counts := trafficReset_counts s
  obtain ⟨-, cls, capture⟩ := trafficReset_frames s
  obtain ⟨free, used, rearms⟩ := trafficReset_pool s
  have shape := trafficReset_shape s
  generalize trafficReset s = t at *
  refine ⟨t, run, fun p c => ⟨(cleared p).queue c, (cleared p).lane c, (cleared p).flushed c⟩,
    fun p => (cleared p).unit, fun l => ⟨port l, cls l⟩, counts, ?_, ?_, free, used, rearms, shape⟩
  · rw [capture]
    exact slot_empty
  · rw [capture]
    rfl

/-! ## The other scopes -/

/-- Settles O44: the two scopes of RESET that move no frame. -/
theorem resetCountersAndFullReturnAtOnce : Obligations.ResetCountersAndFullReturnAtOnce := fun _ _ =>
  ⟨fun running => ⟨Counters.zero, zero_read, exec_running (f := clearCounters) rfl running⟩,
    fun running => exec_running (f := askFullReset) rfl running⟩

end Sys2Proof.Machine
end

section
/-! SUPPORT. Counters (R169, Table 10-6): which of them are 48 bits wide. -/

namespace Sys2Proof.Machine

/-! ## The width of a counter -/

/-- R169: an addition leaves an octet counter an octet counter. -/
theorem Counter.add_octet {k : Counter} {w : BitVec 48} (octet : k = .octet w) (n : Nat) :
    ∃ v, k.add n = .octet v := by
  subst octet
  exact ⟨_, rfl⟩

/-- R169: an addition leaves a frame counter a frame counter. -/
theorem Counter.add_frame {k : Counter} {w : BitVec 32} (frame : k = .frame w) (n : Nat) :
    ∃ v, k.add n = .frame v := by
  subst frame
  exact ⟨_, rfl⟩

/-! ## The counters at power-on -/

theorem zeroArrival_index (k : ArrivalCounter) :
    zeroArrival[k.index] = if k = .octetsReceived then .octet 0 else .frame 0 := by
  cases k <;> rfl

theorem zeroEgress_index (k : ClassCounter) :
    zeroEgress[k.index] = if k = .launchedOctets then .octet 0 else .frame 0 := by
  cases k <;> rfl

/-- R169, Table 10-6: at power-on the received octets and the launched octets are octet counters, every other counter a
frame counter, and each is 0. -/
theorem zero_read_width (id : CounterId) : Counters.zero.read id =
    match id with
      | .arrival _ .octetsReceived => .octet 0
      | .egress _ _ .launchedOctets => .octet 0
      | _ => .frame 0 := by
  cases id with
  | arrival l k =>
    have line : Counters.zero.read (.arrival l k) = zeroArrival[k.index] := by cases l <;> rfl
    rw [line, zeroArrival_index]
    cases k <;> rfl
  | egress l c k =>
    have row : (Vector.replicate 8 zeroEgress)[c] = zeroEgress := Vector.getElem_replicate _
    have line : Counters.zero.read (.egress l c k) = zeroEgress[k.index] := by
      cases l <;> exact congrArg (·[k.index]) row
    rw [line, zeroEgress_index]
    cases k <;> rfl
  | line l k => cases l <;> exact Vector.getElem_replicate _
  | hit k => exact Vector.getElem_replicate _
  | capture k => exact Vector.getElem_replicate _

/-- Settles O50: an addition to one counter of the bank, the widths at power-on and after, and the bytes of both. -/
theorem countersSaturateAlone : Obligations.CountersSaturateAlone := by
  refine ⟨fun b id id' n => ⟨?_, Counters.read_add_ne b n⟩, zero_read_width, fun b id n => ?_,
    fun w => ⟨rfl, rfl⟩, fun w => ⟨rfl, rfl⟩⟩
  · rw [Counters.read_add_same]
    exact Counter.add_toNat (b.read id) n
  · rw [Counters.read_add_same]
    exact ⟨fun _ octet => Counter.add_octet octet n, fun _ frame => Counter.add_frame frame n⟩

end Sys2Proof.Machine
end

section
/-! SUPPORT. The choice of a capture slot (R162), and the good end of a drained frame that holds one (R73, R165). -/

namespace Sys2Proof.Machine

/-! ## The slot given to a request -/

namespace CaptureStore

variable (c : CaptureStore) (mode : CaptureMode)

/-- R162: the lowest EMPTY slot is given first, in either mode. -/
theorem choose_lowest_empty {k : Fin 4} (empty : c.slot k = .empty) (lowest : ∀ j < k, c.slot j ≠ .empty) :
    c.choose mode = some k := by
  have found : (List.finRange 4).find? (fun j => (c.slot j).isEmpty) = some k := by
    rw [← Fin.find?_eq_find?_finRange, Fin.find?_eq_some_iff]
    exact ⟨(isEmpty_iff _).2 empty, fun j below => by simpa [← isEmpty_iff] using lowest j below⟩
  unfold choose
  rw [found, Option.some_or]

/-- R162: with no slot EMPTY the claims decide in RING, and nothing is given in HOLD. -/
theorem choose_none_empty (full : ∀ k, c.slot k ≠ .empty) :
    c.choose mode = if mode = .ring then c.claims.find? fun k => (c.slot k).isHeld else none := by
  have noEmpty : (List.finRange 4).find? (fun j => (c.slot j).isEmpty) = none := by
    rw [← Fin.find?_eq_find?_finRange, Fin.find?_eq_none_iff]
    exact fun j => by simpa [← isEmpty_iff] using full j
  unfold choose
  rw [noEmpty, Option.none_or]
  cases mode <;> rfl

end CaptureStore

section

variable (s : State) (l : Line) (tr : Trigger) (total : Nat) (window : List Byte)

/-- The frame is given the slot that the capture store chooses. -/
theorem requestCapture_slot {k : Fin 4} (given : s.capture.choose s.active.devpol.captureMode = some k) :
    ((requestCapture l tr total window s).cls.get l).slot = some k := by
  rw [requestCapture_given s l tr total window given]
  simp

/-- R162: a frame that held no slot and holds one after its request holds the one chosen. -/
theorem choose_of_requestCapture_slot {k : Fin 4} (free : (s.cls.get l).slot = none)
    (holds : ((requestCapture l tr total window s).cls.get l).slot = some k) :
    s.capture.choose s.active.devpol.captureMode = some k := by
  cases chosen : s.capture.choose s.active.devpol.captureMode with
  | none =>
    rw [requestCapture_missed s l tr total window chosen] at holds
    exact absurd (free.symm.trans holds) (by simp)
  | some n => exact (requestCapture_slot s l tr total window chosen).symm.trans holds

end

/-! ## The good end of a drained frame -/

/-- R73: the good end of a drained frame settles its slot, and does no more than end the frame. -/
theorem exec_end_drained {s : State} {l : Line} (awake : s.resetLow = false) (up : (s.port.get l).line = .up)
    (discard : (s.port.get l).rx.state = .discard) (draining : (s.cls.get l).state = .draining)
    (unmarked : (s.cls.get l).resetMark = false) (good : endVerdict (s.port.get l).rx = .good) :
    exec (.symbolReceived l .endSym) s = .next
      ((holdSlot l (s.ended l (s.port.get l).afterValid)).setCls l Classifier.empty) := by
  have staying : leaveIfJudging l (s.ended l (s.port.get l).afterValid) = s.ended l (s.port.get l).afterValid :=
    if_neg (by simp [State.ended, draining])
  rw [exec_end l awake up (by simp [discard]) (by simp [discard]), good,
    classifierEnd_good (s.ended l (s.port.get l).afterValid) l unmarked, staying,
    endUnmarked_draining (s.ended l (s.port.get l).afterValid) l draining]

/-- R12: a frame end counted as received moves the received frames and octets of its line, and no other counter. -/
theorem ended_counts (s : State) (l : Line) (p : LinePort) :
    s.CountsOnly (s.ended l p) fun id => id = .arrival l .framesReceived ∨ id = .arrival l .octetsReceived :=
  fun id other => by
    obtain ⟨frames, octets⟩ := not_or.1 other
    refine (countedAtEnd_read s l id).trans ?_
    simp [frames, octets, Counter.add_zero]

/-- R12, R73: the slot settled at a frame end moves the captures taken and the lost notices beside the received
counters. -/
theorem holdSlot_ended_counts (s : State) (l : Line) (p : LinePort) :
    s.CountsOnly (holdSlot l (s.ended l p)) fun id =>
      id = .arrival l .framesReceived ∨ id = .arrival l .octetsReceived ∨ id = .capture .taken ∨
        ∃ p, id = .line p .noticeLost := fun id other => by
  obtain ⟨frames, octets, taken, lost⟩ : _ ∧ _ ∧ _ ∧ _ := by simpa only [not_or] using other
  have settles := (holdSlot_counts_offers (s.ended l p) l).1 id fun h => h.elim taken fun ⟨_, moved⟩ => lost moved
  exact settles.trans (ended_counts s l p id fun h => h.elim frames octets)

/-- Settles O14: the slot that a request is given or misses, and the slot that a good drained frame settles. -/
theorem markedFrameIsCaptured : Obligations.MarkedFrameIsCaptured := by
  refine ⟨fun l tr total window s => ⟨fun k empty lowest => ?_, fun full ring k oldest => ?_, fun full missed => ?_,
    fun k free holds => ?_⟩, fun l k r bs s awake up discard draining unmarked holds filling good => ?_⟩
  · exact requestCapture_slot s l tr total window (s.capture.choose_lowest_empty _ empty lowest)
  · refine requestCapture_slot s l tr total window ?_
    rw [s.capture.choose_none_empty _ full, if_pos ring]
    exact oldest
  · refine requestCapture_missed s l tr total window ?_
    rw [s.capture.choose_none_empty _ full]
    rcases missed with hold | unheld
    · exact if_neg (by simp [hold])
    · rw [unheld, ite_self]
  · have given := choose_of_requestCapture_slot s l tr total window free holds
    rw [requestCapture_given s l tr total window given]
    exact ⟨(CaptureStore.slot_claim _ _ _ _ _).trans (if_pos rfl), List.getLast?_concat,
      fun j other => (CaptureStore.slot_claim _ _ _ _ _).trans (if_neg other), rfl⟩
  · refine ⟨_, exec_end_drained awake up discard draining unmarked good, ?_⟩
    have ended := ended_counts s l (s.port.get l).afterValid
    have counts := holdSlot_ended_counts s l (s.port.get l).afterValid
    obtain ⟨held, others, claims, notifies, taken⟩ := holdSlot_entered (w := s.ended l (s.port.get l).afterValid)
      holds filling rfl rfl (fun p => ended _ (by simp)) fun _ => Nat.le_refl _
    rw [ended (.capture .taken) (by simp)] at taken
    obtain ⟨_, _, _, _, _, shape⟩ := holdSlot_shape (s.ended l (s.port.get l).afterValid) l
    generalize holdSlot l (s.ended l (s.port.get l).afterValid) = t at *
    refine ⟨held, others, claims, taken, counts, notifies, PerLine.get_set_same _ _ _, ?_, ?_, ?_⟩
    · rw [shape]
      exact PerLine.get_set_opposite _ _ _
    · refine (PerLine.get_set_opposite _ _ _).trans ?_
      rw [shape]
      rfl
    · rw [shape]
      rfl

end Sys2Proof.Machine
end

section
/-! SUPPORT. The write-time checks of Table 2-10, each as the conditions of its rule (R25, R26, R29, R30, R32 to R37). -/

namespace Sys2Proof.Machine

/-! ## STATION (R25, R26) -/

theorem StationEntry.okIdentity_iff (e : StationEntry) :
    e.okIdentity = true ↔ e = identityEntry e.id ∧ e.id ≠ 0 ∧ e.id.msb = false := by
  obtain ⟨id, matchField, verdict, cls, capture, manager, valid⟩ := e
  simp only [okIdentity, identityEntry, mk.injEq, Bool.and_eq_true, Bool.not_eq_true', bne_iff_ne, beq_iff_eq]
  tauto

theorem StationEntry.okListed_iff (e : StationEntry) : e.okListed = true ↔ (e.valid = true → e.id ≠ 0) := by
  simp only [okListed, Bool.or_eq_true, Bool.not_eq_true', bne_iff_ne, ← Bool.not_eq_true, imp_iff_not_or]

/-! ## RULES (R29, R30) -/

/-- A value byte lies within its mask byte when the mask has every bit of the value. -/
theorem byteWithin_iff (v m : Byte) :
    (v &&& ~~~ m == 0#8) = true ↔ ∀ j < 8, v.getLsbD j = true → m.getLsbD j = true := by
  have bit : ∀ j < 8, (v &&& ~~~ m).getLsbD j = (v.getLsbD j && !m.getLsbD j) := fun j inside => by
    rw [BitVec.getLsbD_and, BitVec.getLsbD_not, decide_eq_true inside, Bool.true_and]
  rw [beq_iff_eq]
  refine ⟨fun within j inside set => ?_, fun within => BitVec.eq_of_getLsbD_eq fun j inside => ?_⟩
  · have clear := bit j inside
    rwa [within, set, BitVec.getLsbD_zero, Bool.true_and, eq_comm, Bool.not_eq_false'] at clear
  · rw [bit j inside, BitVec.getLsbD_zero]
    have kept := within j inside
    revert kept
    cases v.getLsbD j <;> simp

/-- What holds of each pair of two byte lists of one length holds of their bytes at each place. -/
theorem all_zip_iff {xs ys : List Byte} {n : Nat} (xsLength : xs.length = n) (ysLength : ys.length = n)
    (P : Byte × Byte → Bool) :
    (xs.zip ys).all P = true ↔ ∀ i < n, P (xs.getD i 0, ys.getD i 0) = true := by
  have pairs : (xs.zip ys).length = n := by rw [List.length_zip, xsLength, ysLength, Nat.min_self]
  have pair : ∀ i (inside : i < (xs.zip ys).length), (xs.zip ys)[i] = (xs.getD i 0, ys.getD i 0) := fun i inside => by
    rw [List.getElem_zip, List.getD_eq_getElem _ _ (by omega), List.getD_eq_getElem _ _ (by omega)]
  rw [List.all_eq_true, List.forall_mem_iff_forall_getElem]
  simp only [pair, pairs]

theorem RuleEntry.ok_iff (r : RuleEntry) :
    r.ok = true ↔
      20 ≤ r.minLength.toNat ∧ r.minLength.toNat ≤ 1028 ∧ r.anchor.toNat ≤ 63 ∧ 1 ≤ r.width.toNat ∧
        r.width.toNat ≤ 16 ∧ r.anchor.toNat + r.width.toNat ≤ 64 ∧ r.mask.length = r.width.toNat ∧
        r.value.length = r.width.toNat ∧
        (∀ i < r.width.toNat, ∀ j < 8,
          (r.value.getD i 0).getLsbD j = true → (r.mask.getD i 0).getLsbD j = true) ∧
        (r.action ≠ .passAs → r.cls = 0) := by
  simp only [ok, Bool.and_eq_true, Bool.or_eq_true, decide_eq_true_eq, beq_iff_eq, and_assoc, or_iff_not_imp_left]
  refine and_congr_right' <| and_congr_right' <| and_congr_right' <| and_congr_right' <| and_congr_right' <|
    and_congr_right' <| and_congr_right fun maskLength => and_congr_right fun valueLength => and_congr_left' ?_
  rw [all_zip_iff maskLength valueLength]
  exact forall₂_congr fun i _ => byteWithin_iff _ _

/-! ## CLASSPOL, PORTPOL and DEVPOL (R32 to R37) -/

theorem ClassPol.ok_iff (e : ClassPol) :
    e.ok = true ↔
      e.ks.toNat ≤ 32 ∧ e.kl.toNat ≤ 32 ∧ 1 ≤ e.ws.toNat ∧ e.ws.toNat ≤ 1000000 ∧ 1 ≤ e.wl.toNat ∧
        e.wl.toNat ≤ 1000000 ∧ 1 ≤ e.cellLimit.toNat ∧ e.cellLimit.toNat ≤ 1024 ∧ 1 ≤ e.residence.toNat ∧
        e.residence.toNat ≤ 1000000 := by
  simp only [ok, Bool.and_eq_true, decide_eq_true_eq, and_assoc]

/-- R33: a Tc is 0 or at least 50 exactly when it is not one of 1 to 49. -/
theorem PortPol.ok_iff (e : PortPol) :
    e.ok = true ↔ ¬ (1 ≤ e.tc.toNat ∧ e.tc.toNat ≤ 49) ∧ 1 ≤ e.dmax.toNat ∧ e.dmax.toNat ≤ 8 := by
  have zero : e.tc = 0 ↔ e.tc.toNat = 0 := BitVec.toNat_inj.symm
  simp only [ok, Bool.and_eq_true, Bool.or_eq_true, decide_eq_true_eq, beq_iff_eq, and_assoc, zero]
  exact and_congr_left' (by omega)

theorem DevPol.ok_iff (e : DevPol) :
    e.ok = true ↔
      e.reserve.n.toNat ≤ 1024 ∧ e.reserve.s.toNat ≤ 1024 ∧ e.reserve.n.toNat + e.reserve.s.toNat ≤ 1024 ∧
        e.rA.toNat ≤ 31 ∧ e.rB.toNat ≤ 31 ∧ 10 ≤ e.defaultLease.toNat ∧ e.defaultLease.toNat ≤ 60000 ∧
        ∀ g, e.target = some g → g.station ≠ 0 := by
  simp only [ok, Bool.and_eq_true, decide_eq_true_eq, and_assoc]
  iterate 7 refine and_congr_right' ?_
  cases e.target with
  | none => simp
  | some g => simp

end Sys2Proof.Machine
end

section
/-! SUPPORT. The entry encodings of Table 11-6: their bytes, and what a write of an encoded entry does to the bank (R23,
R172). -/

namespace Sys2Proof.Machine

/-! ## The bytes of each entry -/

theorem verdictByte_eq (v : Verdict) : verdictByte v = if v = .pass then 0x00#8 else 0x01#8 := by cases v <;> rfl

theorem captureModeByte_eq (m : CaptureMode) : captureModeByte m = if m = .hold then 0x00#8 else 0x01#8 := by
  cases m <;> rfl

theorem admissionByte_eq (a : Admission) : admissionByte a = if a = .any then 0x00#8 else 0x01#8 := by
  cases a <;> rfl

/-- The flags of a STATION entry: bit 0 valid, bit 1 capture, bit 2 manager. -/
theorem stationFlags_eq (valid capture manager : Bool) :
    flagBit valid 1#8 ||| flagBit capture 2#8 ||| flagBit manager 4#8 =
      byteOf ((if valid then 1 else 0) + (if capture then 2 else 0) + (if manager then 4 else 0)) := by
  revert valid capture manager
  decide

theorem encodeStation_eq (e : StationEntry) :
    encodeStation e = bytes32 e.id ++
      [match e.matchField with
        | .dest => 0x00#8
        | .src => 0x01#8
        | .either => 0x02#8, if e.verdict = .pass then 0x00#8 else 0x01#8,
       match e.cls with
        | .cls c => byteOf c.val
        | .flow => 0x0F#8,
       byteOf ((if e.valid then 1 else 0) + (if e.capture then 2 else 0) + (if e.manager then 4 else 0))] := by
  rw [← verdictByte_eq, ← stationFlags_eq]
  rfl

theorem encodePortPol_eq (e : PortPol) :
    encodePortPol e = bytes16 e.tc ++ [e.dmax, if e.unmatched = .pass then 0x00#8 else 0x01#8] := by
  rw [← verdictByte_eq]
  rfl

theorem encodeDevPol_eq (e : DevPol) :
    encodeDevPol e =
      [if e.captureMode = .hold then 0x00#8 else 0x01#8, if e.admission = .any then 0x00#8 else 0x01#8, e.rA, e.rB] ++
        bytes16 e.reserve.n ++ bytes16 e.reserve.s ++
        (match e.target with
          | none => [0xFF#8, 0x00#8, 0x00#8, 0x00#8, 0x00#8]
          | some g => [if g.line = .n then 0x00#8 else 0x01#8] ++ bytes32 g.station) ++
        bytes16 e.defaultLease ++ [0x00#8] := by
  simp only [← captureModeByte_eq, ← admissionByte_eq, ← lineCode_eq]
  cases target : e.target with
  | none | some g =>
    simp only [encodeDevPol, target]
    rfl

/-! ## An encoded entry written -/

/-- A rule reads back from its encoding when its mask has the length that its width byte gives. -/
theorem decodeRule_encode {r : RuleEntry} (maskLength : r.mask.length = r.width.toNat) :
    decodeRule (encodeRule r) = some r := by
  have flag : ∀ enabled, (flagBit enabled 1#8 &&& 0xFE#8 == 0#8) = true ∧
      (flagBit enabled 1#8).getLsbD 0 = enabled := by decide
  obtain ⟨named, enabled⟩ := flag r.enabled
  simp only [encodeRule, bytes16, List.cons_append, List.nil_append, decodeRule, named, enabled,
    arrivalSetOfByte_arrivalSetByte, actionOfByte_actionByte, classOfByte_classByte, be16_bytes, ← maskLength,
    List.take_left', List.drop_left']

/-- A decoded entry replaces the one in the bank exactly when it passes its check. -/
theorem map_checked {α β : Type} (ok : α → Bool) (replace : α → β) (e : α) :
    (checked ok (some e)).map replace = if ok e = true then some (replace e) else none := by
  show (if ok e = true then some e else none).map replace = _
  split <;> rfl

variable (b : Bank) (i : Nat)

theorem write_station (e : StationEntry) :
    b.write .station i (encodeStation e) =
      if e.okAt i = true then some { b with station := b.station.setIfInBounds i e } else none := by
  rw [Bank.write, decodeStation_encode, map_checked]

theorem write_rule {r : RuleEntry} (maskLength : r.mask.length = r.width.toNat) :
    b.write .rules i (encodeRule r) =
      if r.ok = true then some { b with rules := b.rules.setIfInBounds i r } else none := by
  rw [Bank.write, decodeRule_encode maskLength, map_checked]

theorem write_flow (c : TrafficClass) :
    b.write .flowmap i [classByte c] = some { b with flowmap := b.flowmap.setIfInBounds i c } := by
  rw [Bank.write, decodeFlow, classOfByte_classByte, Option.map_some]

theorem write_classPol (e : ClassPol) :
    b.write .classpol i (encodeClassPol e) =
      if e.ok = true then some { b with classpol := b.classpol.setIfInBounds i e } else none := by
  rw [Bank.write, decodeClassPol_encode, map_checked]

theorem write_portPol (e : PortPol) :
    b.write .portpol i (encodePortPol e) =
      if e.ok = true then some { b with portpol := b.portpol.set (if i = 0 then .n else .s) e } else none := by
  rw [Bank.write, decodePortPol_encode, map_checked]

theorem write_devPol (e : DevPol) :
    b.write .devpol i (encodeDevPol e) = if e.ok = true then some { b with devpol := e } else none := by
  rw [Bank.write, decodeDevPol_encode, map_checked]

/-! ## An entry read and written back (R172) -/

/-- The bytes read at an index of a table are the encoding of the entry that stands there. -/
theorem encoded_getElem {α : Type} {n : Nat} (v : Vector α n) (encode : α → List Byte) {i : Nat} (inside : i < n) :
    (v[i]?.map encode).getD [] = encode v[i] := by
  rw [Vector.getElem?_eq_getElem inside, Option.map_some, Option.getD_some]

theorem setIfInBounds_getElem {α : Type} {n : Nat} (v : Vector α n) {i : Nat} (inside : i < n) :
    v.setIfInBounds i v[i] = v :=
  setIfInBounds_eq_self fun _ => rfl

variable {b i}

/-- R172: the bytes of an entry that passes its checks, written back, leave the bank. -/
theorem write_entryBytes (checks : b.EntriesOk) {t : TableId} (inside : i < t.entries) :
    b.write t i (b.entryBytes t i) = some b := by
  obtain ⟨station, rules, classpol, portpol, devpol⟩ := checks
  cases t with
  | station =>
    have passes : b.station[i].okAt i = true := station ⟨i, inside⟩
    rw [Bank.entryBytes, encoded_getElem b.station encodeStation inside, write_station, if_pos passes,
      setIfInBounds_getElem b.station inside]
  | groupmap =>
    rw [Bank.entryBytes, encoded_getElem b.groupmap bytes32 inside, write_groupmap,
      setIfInBounds_getElem b.groupmap inside]
  | rules =>
    have passes : b.rules[i].ok = true := rules ⟨i, inside⟩
    obtain ⟨-, -, -, -, -, -, maskLength, -⟩ := (RuleEntry.ok_iff _).1 passes
    rw [Bank.entryBytes, encoded_getElem b.rules encodeRule inside, write_rule _ _ maskLength, if_pos passes,
      setIfInBounds_getElem b.rules inside]
  | flowmap =>
    rw [Bank.entryBytes, encoded_getElem b.flowmap (fun c => [classByte c]) inside, write_flow,
      setIfInBounds_getElem b.flowmap inside]
  | classpol =>
    have passes : b.classpol[i].ok = true := classpol ⟨i, inside⟩
    rw [Bank.entryBytes, encoded_getElem b.classpol encodeClassPol inside, write_classPol, if_pos passes,
      setIfInBounds_getElem b.classpol inside]
  | portpol => rw [Bank.entryBytes, write_portPol, if_pos (portpol _), PerLine.set_get]
  | devpol => rw [Bank.entryBytes, write_devPol, if_pos devpol]

end Sys2Proof.Machine
end

section
/-! SUPPORT. The bytes that no write takes (R172): a byte that names no value of its field, an unnamed flag bit, a
reserved byte, a target none with a station, and a length that the table does not take. -/

namespace Sys2Proof.Machine

/-! ## Bytes that name no value -/

section

variable {b c : Byte} {n : Nat}

theorem ne_of_above (above : n < b.toNat) (within : c.toNat ≤ n) : b ≠ c := fun same =>
  Nat.not_lt.2 within (same ▸ above)

theorem matchOfByte_other (other : 2 < b.toNat) : matchOfByte b = none := by
  unfold matchOfByte
  rw [if_neg, if_neg, if_neg] <;> exact ne_of_above other (by decide)

theorem verdictOfByte_other (other : 1 < b.toNat) : verdictOfByte b = none := by
  unfold verdictOfByte
  rw [if_neg, if_neg] <;> exact ne_of_above other (by decide)

theorem classOfByte_other (other : 7 < b.toNat) : classOfByte b = none := dif_neg (by omega)

theorem stationClassOfByte_other (other : 7 < b.toNat) (notFlow : b ≠ 0x0F#8) : stationClassOfByte b = none := by
  rw [stationClassOfByte, if_neg notFlow, classOfByte_other other, Option.map_none]

theorem arrivalSetOfByte_other (other : b = 0x00#8 ∨ 3 < b.toNat) : arrivalSetOfByte b = none := by
  obtain rfl | other := other
  · rfl
  · unfold arrivalSetOfByte
    rw [if_neg, if_neg, if_neg] <;> exact ne_of_above other (by decide)

theorem actionOfByte_other (other : 2 < b.toNat) : actionOfByte b = none := by
  unfold actionOfByte
  rw [if_neg, if_neg, if_neg] <;> exact ne_of_above other (by decide)

theorem captureModeOfByte_other (other : 1 < b.toNat) : captureModeOfByte b = none := by
  unfold captureModeOfByte
  rw [if_neg, if_neg] <;> exact ne_of_above other (by decide)

theorem admissionOfByte_other (other : 1 < b.toNat) : admissionOfByte b = none := by
  unfold admissionOfByte
  rw [if_neg, if_neg] <;> exact ne_of_above other (by decide)

/-- R172: a line that is neither N, S nor none is no target, and none goes with station 0 only. -/
theorem decodeTarget_other {station : StationId}
    (other : (1 < b.toNat ∧ b ≠ 0xFF#8) ∨ (b = 0xFF#8 ∧ station ≠ 0)) : decodeTarget b station = none := by
  unfold decodeTarget
  obtain ⟨other, notNone⟩ | ⟨rfl, named⟩ := other
  · rw [if_neg notNone, if_neg, if_neg] <;> exact ne_of_above other (by decide)
  · rw [if_pos rfl, if_neg named]

/-- The flags of a STATION entry are bits 0 to 2. -/
theorem stationFlags_other : ∀ f : Byte, 7 < f.toNat → (f &&& 0xF8#8 == 0#8) = false := by decide

/-- The flag of a rule is bit 0. -/
theorem ruleFlags_other : ∀ f : Byte, 1 < f.toNat → (f &&& 0xFE#8 == 0#8) = false := by decide

end

/-! ## Entries with such a byte -/

section

variable {a b c d : Byte} {rest : List Byte}

theorem decodeStation_named {m v k f : Byte} {e : StationEntry}
    (decoded : decodeStation [a, b, c, d, m, v, k, f] = some e) :
    matchOfByte m = some e.matchField ∧ verdictOfByte v = some e.verdict ∧ stationClassOfByte k = some e.cls ∧
      (f &&& 0xF8#8 == 0#8) = true := by
  simp only [decodeStation] at decoded
  split at decoded
  · rename_i matchField verdict cls flags
    obtain rfl := Option.some.inj decoded
    exact ⟨matchField, verdict, cls, flags⟩
  · cases decoded

theorem decodeStation_other {m v k f : Byte}
    (other : 2 < m.toNat ∨ 1 < v.toNat ∨ (7 < k.toNat ∧ k ≠ 0x0F#8) ∨ 7 < f.toNat) :
    decodeStation [a, b, c, d, m, v, k, f] = none := by
  refine Option.eq_none_iff_forall_ne_some.2 fun e decoded => ?_
  obtain ⟨matchField, verdict, cls, flags⟩ := decodeStation_named decoded
  obtain other | other | ⟨other, notFlow⟩ | other := other
  · exact nomatch (matchOfByte_other other).symm.trans matchField
  · exact nomatch (verdictOfByte_other other).symm.trans verdict
  · exact nomatch (stationClassOfByte_other other notFlow).symm.trans cls
  · exact nomatch (stationFlags_other f other).symm.trans flags

theorem decodeRule_named {f ar ac k : Byte} {r : RuleEntry}
    (decoded : decodeRule (f :: ar :: a :: b :: c :: d :: ac :: k :: rest) = some r) :
    (f &&& 0xFE#8 == 0#8) = true ∧ arrivalSetOfByte ar = some r.arrival ∧ actionOfByte ac = some r.action ∧
      classOfByte k = some r.cls := by
  simp only [decodeRule] at decoded
  split at decoded
  · rename_i flags arrival action cls
    obtain rfl := Option.some.inj decoded
    exact ⟨flags, arrival, action, cls⟩
  · cases decoded

theorem decodeRule_other {f ar ac k : Byte}
    (other : 1 < f.toNat ∨ ar = 0x00#8 ∨ 3 < ar.toNat ∨ 2 < ac.toNat ∨ 7 < k.toNat) :
    decodeRule (f :: ar :: a :: b :: c :: d :: ac :: k :: rest) = none := by
  refine Option.eq_none_iff_forall_ne_some.2 fun r decoded => ?_
  obtain ⟨flags, arrival, action, cls⟩ := decodeRule_named decoded
  rw [← or_assoc (a := ar = 0x00#8)] at other
  obtain other | other | other | other := other
  · exact nomatch (ruleFlags_other f other).symm.trans flags
  · exact nomatch (arrivalSetOfByte_other other).symm.trans arrival
  · exact nomatch (actionOfByte_other other).symm.trans action
  · exact nomatch (classOfByte_other other).symm.trans cls

theorem decodePortPol_other {v : Byte} (other : 1 < v.toNat) : decodePortPol [a, b, c, v] = none := by
  rw [decodePortPol, verdictOfByte_other other, Option.map_none]

variable {cm ad rA rB n0 n1 s0 s1 line l0 l1 z : Byte}

theorem decodeDevPol_named {e : DevPol}
    (decoded : decodeDevPol [cm, ad, rA, rB, n0, n1, s0, s1, line, a, b, c, d, l0, l1, z] = some e) :
    captureModeOfByte cm = some e.captureMode ∧ admissionOfByte ad = some e.admission ∧
      decodeTarget line (be32 a b c d) = some e.target ∧ (z == 0#8) = true := by
  simp only [decodeDevPol] at decoded
  split at decoded
  · rename_i captureMode admission target reserved
    obtain rfl := Option.some.inj decoded
    exact ⟨captureMode, admission, target, reserved⟩
  · cases decoded

theorem decodeDevPol_other
    (other : 1 < cm.toNat ∨ 1 < ad.toNat ∨ z ≠ 0x00#8 ∨ (1 < line.toNat ∧ line ≠ 0xFF#8) ∨
      (line = 0xFF#8 ∧ be32 a b c d ≠ 0)) :
    decodeDevPol [cm, ad, rA, rB, n0, n1, s0, s1, line, a, b, c, d, l0, l1, z] = none := by
  refine Option.eq_none_iff_forall_ne_some.2 fun e decoded => ?_
  obtain ⟨captureMode, admission, target, reserved⟩ := decodeDevPol_named decoded
  obtain other | other | other | other := other
  · exact nomatch (captureModeOfByte_other other).symm.trans captureMode
  · exact nomatch (admissionOfByte_other other).symm.trans admission
  · exact other (eq_of_beq reserved)
  · exact nomatch (decodeTarget_other other).symm.trans target

end

/-! ## The length of an entry -/

section

variable {bs : List Byte}

theorem decodeStation_length {e : StationEntry} (decoded : decodeStation bs = some e) : bs.length = 8 := by
  unfold decodeStation at decoded
  split at decoded
  · rfl
  · cases decoded

theorem decodeWord_length {e : Word} (decoded : decodeWord bs = some e) : bs.length = 4 := by
  unfold decodeWord at decoded
  split at decoded
  · rfl
  · cases decoded

theorem decodeFlow_length {e : TrafficClass} (decoded : decodeFlow bs = some e) : bs.length = 1 := by
  unfold decodeFlow at decoded
  split at decoded
  · rfl
  · cases decoded

theorem decodeClassPol_length {e : ClassPol} (decoded : decodeClassPol bs = some e) : bs.length = 16 := by
  unfold decodeClassPol at decoded
  split at decoded
  · rfl
  · cases decoded

theorem decodePortPol_length {e : PortPol} (decoded : decodePortPol bs = some e) : bs.length = 4 := by
  unfold decodePortPol at decoded
  split at decoded
  · rfl
  · cases decoded

theorem decodeDevPol_length {e : DevPol} (decoded : decodeDevPol bs = some e) : bs.length = 16 := by
  unfold decodeDevPol at decoded
  split at decoded
  · rfl
  · cases decoded

/-- The width of a rule is its sixth byte, and its mask and value are all that follow the first eight. -/
theorem decodeRule_length {r : RuleEntry} (decoded : decodeRule bs = some r) :
    bs[5]? = some r.width ∧ bs.length = 8 + r.mask.length + r.value.length := by
  unfold decodeRule at decoded
  split at decoded
  · split at decoded
    · obtain rfl := Option.some.inj decoded
      refine ⟨rfl, ?_⟩
      simp only [List.length_cons, List.length_take, List.length_drop]
      omega
    · cases decoded
  · cases decoded

end

/-- R171: a write takes an entry of the length of its table only. -/
theorem entrySized_of_write {b b' : Bank} {t : TableId} {i : Nat} {bs : List Byte}
    (written : b.write t i bs = some b') : EntrySized t.code bs := by
  cases t with
  | station =>
    obtain ⟨e, passed, -⟩ := Option.map_eq_some_iff.1 written
    exact (entrySized_fixed rfl bs).2 (decodeStation_length (checked_eq_some.1 passed).1)
  | groupmap =>
    obtain ⟨e, decoded, -⟩ := Option.map_eq_some_iff.1 written
    exact (entrySized_fixed rfl bs).2 (decodeWord_length decoded)
  | rules =>
    obtain ⟨r, passed, -⟩ := Option.map_eq_some_iff.1 written
    obtain ⟨decoded, ok⟩ := checked_eq_some.1 passed
    obtain ⟨width, length⟩ := decodeRule_length decoded
    obtain ⟨-, -, -, -, -, -, maskLength, valueLength, -⟩ := r.ok_iff.1 ok
    refine (entrySized_rules bs).2 fun w found _ _ => ?_
    obtain rfl := Option.some.inj (width.symm.trans found)
    omega
  | flowmap =>
    obtain ⟨e, decoded, -⟩ := Option.map_eq_some_iff.1 written
    exact (entrySized_fixed rfl bs).2 (decodeFlow_length decoded)
  | classpol =>
    obtain ⟨e, passed, -⟩ := Option.map_eq_some_iff.1 written
    exact (entrySized_fixed rfl bs).2 (decodeClassPol_length (checked_eq_some.1 passed).1)
  | portpol =>
    obtain ⟨e, passed, -⟩ := Option.map_eq_some_iff.1 written
    exact (entrySized_fixed rfl bs).2 (decodePortPol_length (checked_eq_some.1 passed).1)
  | devpol =>
    obtain ⟨e, passed, -⟩ := Option.map_eq_some_iff.1 written
    exact (entrySized_fixed rfl bs).2 (decodeDevPol_length (checked_eq_some.1 passed).1)

/-! ## Writes refused -/

section

variable (b : Bank) (i : Nat)

theorem write_station_other (id : StationId) {m v k f : Byte}
    (other : 2 < m.toNat ∨ 1 < v.toNat ∨ (7 < k.toNat ∧ k ≠ 0x0F#8) ∨ 7 < f.toNat) :
    b.write .station i (bytes32 id ++ [m, v, k, f]) = none := by
  have decoded : decodeStation (bytes32 id ++ [m, v, k, f]) = none := decodeStation_other other
  rw [Bank.write, decoded]
  rfl

theorem write_rule_other (least : Half) (an w : Byte) (rest : List Byte) {f ar ac k : Byte}
    (other : 1 < f.toNat ∨ ar = 0x00#8 ∨ 3 < ar.toNat ∨ 2 < ac.toNat ∨ 7 < k.toNat) :
    b.write .rules i ([f, ar] ++ bytes16 least ++ [an, w, ac, k] ++ rest) = none := by
  have decoded : decodeRule ([f, ar] ++ bytes16 least ++ [an, w, ac, k] ++ rest) = none := decodeRule_other other
  rw [Bank.write, decoded]
  rfl

theorem write_portPol_other (tc : Half) (dmax : Byte) {v : Byte} (other : 1 < v.toNat) :
    b.write .portpol i (bytes16 tc ++ [dmax, v]) = none := by
  have decoded : decodePortPol (bytes16 tc ++ [dmax, v]) = none := decodePortPol_other other
  rw [Bank.write, decoded]
  rfl

theorem write_devPol_other (rA rB : Byte) (n s lease : Half) {cm ad line z : Byte} {station : StationId}
    (other : 1 < cm.toNat ∨ 1 < ad.toNat ∨ z ≠ 0x00#8 ∨ (1 < line.toNat ∧ line ≠ 0xFF#8) ∨
      (line = 0xFF#8 ∧ station ≠ 0)) :
    b.write .devpol i ([cm, ad, rA, rB] ++ bytes16 n ++ bytes16 s ++ [line] ++ bytes32 station ++ bytes16 lease ++
      [z]) = none := by
  rw [← be32_bytes station] at other
  have decoded : decodeDevPol ([cm, ad, rA, rB] ++ bytes16 n ++ bytes16 s ++ [line] ++ bytes32 station ++
      bytes16 lease ++ [z]) = none := decodeDevPol_other other
  rw [Bank.write, decoded]
  rfl

theorem write_unsized {code : Byte} {t : TableId} {bs : List Byte} (named : TableId.ofCode code = some t)
    (unsized : ¬ EntrySized code bs) : b.write t i bs = none := by
  obtain rfl := code_of_ofCode named
  exact Option.eq_none_iff_forall_ne_some.2 fun b' written => unsized (entrySized_of_write written)

end

/-- Settles O47: the checks, the encodings, the writes of encoded entries and the bytes refused, table by table. -/
theorem entryReadAndWrittenBackIsUnchanged : Obligations.EntryReadAndWrittenBackIsUnchanged := by
  refine ⟨fun b t i checks inside => write_entryBytes checks inside, fun e => ⟨e.okIdentity_iff, e.okListed_iff⟩,
    RuleEntry.ok_iff, ClassPol.ok_iff, PortPol.ok_iff, DevPol.ok_iff,
    fun b i => ⟨write_station b i, fun r => write_rule b i, write_classPol b i, write_portPol b i, write_devPol b i⟩,
    encodeStation_eq, fun r => ?_, fun e => rfl, encodePortPol_eq, encodeDevPol_eq,
    fun b i => ⟨fun id m v k f => write_station_other b i id,
      fun f ar an w ac k least rest => write_rule_other b i least an w rest,
      fun tc dmax v => write_portPol_other b i tc dmax,
      fun cm ad rA rB line z n s lease station => write_devPol_other b i rA rB n s lease,
      fun code t bs => write_unsized b i⟩⟩
  rfl

end Sys2Proof.Machine
end

section
/-! SUPPORT. The step of a machine with a command waiting. -/

namespace Sys2Proof.Machine

/-- Settles O1: a queue with a command in front selects the first branch of `step`. The idle branch is O2's. -/
theorem stepRunsFrontCommand : Obligations.StepRunsFrontCommand := by
  intro c rest s front
  rw [step, front]

end Sys2Proof.Machine
end
